-- ==== Sys2Proof/Word.lean ====
section
/-! DEFINITION. The word types of the balcony-2022 CORE (spec 00_scope R8: every quantity is unsigned).
Bit 0 is the least significant bit, as in `BitVec`. -/

namespace Sys2Proof

/-- A 32-bit unsigned value: a general register, a Tick, an entropy sample, a 32-bit draw (R8, R21). -/
abbrev Word := BitVec 32

/-- A 16-bit unsigned value: a pixel's `phase` or `rate` (R27). -/
abbrev Half := BitVec 16

/-- An 8-bit unsigned value: a colour channel, a table entry, an index (R27 to R29). -/
abbrev Byte := BitVec 8

/-- A 16-bit operation word of `PROG` (R90). -/
abbrev OpWord := BitVec 16

end Sys2Proof
end

