-- ==== Sys2Proof/Syntax.lean ====
section
/-! DEFINITION. The syntax of the 17 operations of the opcode map (spec 30_encoding R95) and of their
register operands (R91, R92). -/

namespace Sys2Proof

/-- A general register `x0` to `x3` (R21); `x0` is `tref`, `x1` is `tfrm`. -/
inductive Reg where
  | x0 | x1 | x2 | x3
  deriving DecidableEq, Repr, Inhabited

/-- One constructor per row of the opcode map (R95). -/
inductive Instr where
  /-- `SEQ.JMP imm` (R211). -/
  | seqJmp (imm : Byte)
  /-- `SEQ.HALT` (R212). -/
  | seqHalt
  /-- `CLK.INIT` (R124). -/
  | clkInit
  /-- `CLK.NOW rd` (R125). -/
  | clkNow (rd : Reg)
  /-- `CLK.ELAPSED rd, rs` (R126). -/
  | clkElapsed (rd rs : Reg)
  /-- `CLK.MICROS rd, rs` (R127). -/
  | clkMicros (rd rs : Reg)
  /-- `CLK.MILLIS rd, rs` (R128). -/
  | clkMillis (rd rs : Reg)
  /-- `RNG.SEED` (R143). -/
  | rngSeed
  /-- `RNG.U32 rd` (R147). -/
  | rngU32 (rd : Reg)
  /-- `RNG.U64 rd`, `rd` in x0, x2 (R148; format DP of R91). -/
  | rngU64 (rd : Reg)
  /-- `PIX.STEP imm` (R161). -/
  | pixStep (imm : Byte)
  /-- `FRM.COMPOSE` (R184). -/
  | frmCompose
  /-- `FRM.XMIT` (R187). -/
  | frmXmit
  /-- `SCH.RETARGET` (R203). -/
  | schRetarget
  /-- `SCH.REFRESH` (R204). -/
  | schRefresh
  /-- `SCH.STEPALL` (R206). -/
  | schStepall
  /-- `SCH.WAIT` (R208). -/
  | schWait
  deriving DecidableEq, Repr, Inhabited

end Sys2Proof
end

