-- ==== Sys2Proof/WellFormed.lean ====
section
/-! DEFINITION. Which terms of `Instr` are operations of the hardware (spec 30_encoding R91, R92). -/

namespace Sys2Proof

/-- `rd[0] = 0`: the register may name the low half of a pair (format DP of R91). -/
def Reg.isEven : Reg → Bool
  | .x0 => true
  | .x1 => false
  | .x2 => true
  | .x3 => false

/-- An operation is well formed when the encoding of R91 admits its operands: only format DP narrows
them (`rd` even). Every immediate and every other register number is admitted (R92). -/
def Instr.wellFormed : Instr → Bool
  | .seqJmp _ => true
  | .seqHalt => true
  | .clkInit => true
  | .clkNow _ => true
  | .clkElapsed _ _ => true
  | .clkMicros _ _ => true
  | .clkMillis _ _ => true
  | .rngSeed => true
  | .rngU32 _ => true
  | .rngU64 rd => rd.isEven
  | .pixStep _ => true
  | .frmCompose => true
  | .frmXmit => true
  | .schRetarget => true
  | .schRefresh => true
  | .schStepall => true
  | .schWait => true

end Sys2Proof
end

