-- ==== Sys2Proof/Decode.lean ====
section
/-! DEFINITION. Decoding and encoding of operation words (spec 30_encoding R90 to R97). The decoder is
the opcode map of R95 searched by mask and match, as R93 says; the encoder is written from the same
rows and the formats of R91. -/

namespace Sys2Proof

/-- The register a 2-bit register number selects (R91). -/
def Reg.ofBits (b : BitVec 2) : Reg :=
  if b = 0 then .x0 else if b = 1 then .x1 else if b = 2 then .x2 else .x3

/-- The 2-bit number of a register (R91). -/
def Reg.bits : Reg → BitVec 2
  | .x0 => 0
  | .x1 => 1
  | .x2 => 2
  | .x3 => 3

/-- `unit`, bits 15:12 (R90). -/
def unitField (w : OpWord) : BitVec 4 := w.extractLsb' 12 4

/-- `fn`, bits 11:8 (R90). -/
def fnField (w : OpWord) : BitVec 4 := w.extractLsb' 8 4

/-- `arg` (and the immediate), bits 7:0 (R90, R92). -/
def argField (w : OpWord) : Byte := w.extractLsb' 0 8

/-- `rd = arg[5:4]` (R92). -/
def rdField (w : OpWord) : Reg := Reg.ofBits (w.extractLsb' 4 2)

/-- `rs = arg[1:0]` (R92). -/
def rsField (w : OpWord) : Reg := Reg.ofBits (w.extractLsb' 0 2)

/-- One row of the opcode map (R95). -/
structure OpcodeRow where
  mnemonic : String
  pattern : OpWord
  mask : OpWord
  build : OpWord → Instr

/-- `(w & mask) == match` (R93). -/
def OpcodeRow.admits (r : OpcodeRow) (w : OpWord) : Bool := w &&& r.mask == r.pattern

/-- The opcode map of R95, in its order. -/
def opcodeRows : List OpcodeRow :=
  [ ⟨"SEQ.JMP", 0x0100, 0xFF00, fun w => .seqJmp (argField w)⟩,
    ⟨"SEQ.HALT", 0x0200, 0xFFFF, fun _ => .seqHalt⟩,
    ⟨"CLK.INIT", 0x1000, 0xFFFF, fun _ => .clkInit⟩,
    ⟨"CLK.NOW", 0x1100, 0xFFCF, fun w => .clkNow (rdField w)⟩,
    ⟨"CLK.ELAPSED", 0x1200, 0xFFCC, fun w => .clkElapsed (rdField w) (rsField w)⟩,
    ⟨"CLK.MICROS", 0x1300, 0xFFCC, fun w => .clkMicros (rdField w) (rsField w)⟩,
    ⟨"CLK.MILLIS", 0x1400, 0xFFCC, fun w => .clkMillis (rdField w) (rsField w)⟩,
    ⟨"RNG.SEED", 0x2000, 0xFFFF, fun _ => .rngSeed⟩,
    ⟨"RNG.U32", 0x2100, 0xFFCF, fun w => .rngU32 (rdField w)⟩,
    ⟨"RNG.U64", 0x2200, 0xFFDF, fun w => .rngU64 (rdField w)⟩,
    ⟨"PIX.STEP", 0x3000, 0xFF00, fun w => .pixStep (argField w)⟩,
    ⟨"FRM.COMPOSE", 0x4000, 0xFFFF, fun _ => .frmCompose⟩,
    ⟨"FRM.XMIT", 0x4100, 0xFFFF, fun _ => .frmXmit⟩,
    ⟨"SCH.RETARGET", 0x5000, 0xFFFF, fun _ => .schRetarget⟩,
    ⟨"SCH.REFRESH", 0x5100, 0xFFFF, fun _ => .schRefresh⟩,
    ⟨"SCH.STEPALL", 0x5200, 0xFFFF, fun _ => .schStepall⟩,
    ⟨"SCH.WAIT", 0x5300, 0xFFFF, fun _ => .schWait⟩ ]

/-- Why a word is not an operation (R96): it matches no row of the opcode map. -/
inductive DecodeError where
  | illegalOperation (w : OpWord)
  deriving DecidableEq, Repr

/-- Decoding (R93): the operation of the row that matches; total on all 65,536 words, and a word that
matches no row is rejected as illegal (R96). -/
def decode (w : OpWord) : Except DecodeError Instr :=
  match opcodeRows.find? (fun r => r.admits w) with
  | some r => .ok (r.build w)
  | none => .error (.illegalOperation w)

/-- Format D (R91): `rd` in bits 5:4. -/
def encodeD (base : OpWord) (rd : Reg) : OpWord := base ||| (rd.bits.zeroExtend 16 <<< 4)

/-- Format DS (R91): `rd` in bits 5:4, `rs` in bits 1:0. -/
def encodeDS (base : OpWord) (rd rs : Reg) : OpWord :=
  encodeD base rd ||| rs.bits.zeroExtend 16

/-- Format I (R91): the immediate in bits 7:0. -/
def encodeI (base : OpWord) (imm : Byte) : OpWord := base ||| imm.zeroExtend 16

/-- The word of an operation (R91, R95). A term that is not well formed (`RNG.U64` with an odd `rd`)
is given the word its fields lay out, which is illegal (R96). -/
def encode : Instr → OpWord
  | .seqJmp imm => encodeI 0x0100 imm
  | .seqHalt => 0x0200
  | .clkInit => 0x1000
  | .clkNow rd => encodeD 0x1100 rd
  | .clkElapsed rd rs => encodeDS 0x1200 rd rs
  | .clkMicros rd rs => encodeDS 0x1300 rd rs
  | .clkMillis rd rs => encodeDS 0x1400 rd rs
  | .rngSeed => 0x2000
  | .rngU32 rd => encodeD 0x2100 rd
  | .rngU64 rd => encodeD 0x2200 rd
  | .pixStep imm => encodeI 0x3000 imm
  | .frmCompose => 0x4000
  | .frmXmit => 0x4100
  | .schRetarget => 0x5000
  | .schRefresh => 0x5100
  | .schStepall => 0x5200
  | .schWait => 0x5300

/-- The mnemonic of an operation, as the opcode map spells it (R95). -/
def Instr.mnemonic : Instr → String
  | .seqJmp _ => "SEQ.JMP"
  | .seqHalt => "SEQ.HALT"
  | .clkInit => "CLK.INIT"
  | .clkNow _ => "CLK.NOW"
  | .clkElapsed _ _ => "CLK.ELAPSED"
  | .clkMicros _ _ => "CLK.MICROS"
  | .clkMillis _ _ => "CLK.MILLIS"
  | .rngSeed => "RNG.SEED"
  | .rngU32 _ => "RNG.U32"
  | .rngU64 _ => "RNG.U64"
  | .pixStep _ => "PIX.STEP"
  | .frmCompose => "FRM.COMPOSE"
  | .frmXmit => "FRM.XMIT"
  | .schRetarget => "SCH.RETARGET"
  | .schRefresh => "SCH.REFRESH"
  | .schStepall => "SCH.STEPALL"
  | .schWait => "SCH.WAIT"

/-- The instruction the decoder reads from an instruction whose bits are `w`, numbered as
spec/opcode_table.json numbers them. Every operation is ONE 16-bit word (R90, R97), so bits `nbits`
and above are 0 and anything longer than a word is no operation. -/
def decodeTableWord (nbits w : Nat) : Option Instr :=
  if w % 2 ^ nbits < 65536 then
    match decode (BitVec.ofNat 16 (w % 2 ^ nbits)) with
    | .ok i => some i
    | .error _ => none
  else none

end Sys2Proof
end

