-- ==== Sys2Proof/Config.lean ====
section
/-! DEFINITION. The configuration record `Cfg` of spec 00_scope R6 as plain data, the values the
spec leaves OPEN (opaque: no body, nothing is known of them), and the answers of the outside world
(oracle inputs of R33), also opaque. Log entries 1 to 6. -/

namespace Sys2Proof

/-- A logical channel name (R180, R184). -/
inductive Channel where
  | r | g | b
  deriving DecidableEq, Repr, Inhabited

/-- A logical colour `(r, g, b)` (R180). -/
structure Color where
  r : Byte
  g : Byte
  b : Byte
  deriving DecidableEq, Repr, Inhabited

/-- A physical colour `(c0, c1, c2)` in the device's channel order (R29). -/
structure WireColor where
  c0 : Byte
  c1 : Byte
  c2 : Byte
  deriving DecidableEq, Repr, Inhabited

/-- `PERM = (P0, P1, P2)` (R184); R7 asks that it be a permutation. -/
structure Perm where
  p0 : Channel
  p1 : Channel
  p2 : Channel
  deriving DecidableEq, Repr, Inhabited

/-- A 256-entry table of 8-bit entries: `CURVE`, `SATLUT`, `GAMMA` (R6, R7, R60). -/
abbrev Table := Vector Byte 256

/-- Element `i` of a table; an 8-bit index is always in range (R64). -/
def Table.at (t : Table) (i : Byte) : Byte := t[i.toNat]'i.isLt

/-- The 32 seed bytes (R142; `SEED_LEN = 32` of R6). -/
abbrev Seed := Vector Byte 32

/-- The type `G` of generator states (R140). A generator's states are countable, so a natural number
names one; nothing is assumed of the numbering (log entry 3). -/
abbrev Gen := Nat

/-- Which total function `HSV2RGB` is (R180): the decided default `HSV2RGB_REF` of R181, or parameter
number `k`, an uninterpreted function (log entry 4). -/
inductive Converter where
  | reference
  | parameter (k : Nat)
  deriving DecidableEq, Repr, Inhabited

/-- Which generator functions `PRNG_FROM_SEED`, `PRNG_NEXT_U32`, `PRNG_NEXT_U64` are (R140): parameter
number `k`, uninterpreted, or the fixture of 95_test_vectors section 2 (a test's, not the hardware's;
log entry 3). -/
inductive Generator where
  | parameter (k : Nat)
  | testFixture
  deriving DecidableEq, Repr, Inhabited

/-- One element-indexed space of R60 as a list of (index, element) pairs in canonical form: indexes
strictly rising, no entry equal to what an unlisted index reads as (log entry 7). -/
abbrev Space (α : Type) := List (Nat × α)

/-- The configuration record of R6. `RATE_MASK`, `RATE_MIN` and `SEED_LEN` are constants by R6 and
R7, and tables have 256 entries by their type. -/
structure Cfg where
  /-- `N`, the number of pixels, 1 to 256. -/
  pixels : Nat
  /-- `TICK_HZ`. -/
  tickHz : Nat
  /-- `REFRESH_TICKS`. -/
  refreshTicks : Word
  /-- `FRAME_MIN_TICKS`. -/
  frameMinTicks : Word
  /-- `CURVE`. -/
  curve : Table
  /-- `SATLUT`. -/
  satlut : Table
  /-- `GAMMA`. -/
  gamma : Table
  /-- `PERM`. -/
  perm : Perm
  /-- `HSV2RGB`. -/
  converter : Converter
  /-- `G` and the three generator functions. -/
  generator : Generator
  /-- `SAMPLES_PER_HALF`, 1 to 4. -/
  samplesPerHalf : Nat
  /-- `PROG`, 256 operation words; an unlisted index holds 0x0000 (R98, R214). -/
  prog : Space OpWord
  deriving DecidableEq, Repr

/-- `RATE_MASK` (R6, R7). -/
def Config.rateMask : Nat := 0x3FF

/-- `RATE_MIN` (R6, R7). -/
def Config.rateMin : Nat := 128

/-- One answer of the entropy collaborator (R141). -/
inductive EntropyAnswer where
  | accept (w : Word)
  | needMore
  | timeout
  deriving DecidableEq, Repr, Inhabited

/-- One answer of the transmission collaborator (R188). -/
inductive TxAnswer where
  | ok
  | fail
  deriving DecidableEq, Repr, Inhabited

/-- Who acts next (R20): the sequencer, the tick source, the transmitter, or the host asserting reset
(R260). The entropy collaborator takes no step of its own: it answers calls. -/
inductive Turn where
  | seq
  | tick
  | tx
  | hostReset
  deriving DecidableEq, Repr, Inhabited

/-- OPEN (R6, D10): the contents of `CURVE` in the reference configuration. -/
opaque Config.curve : Table

/-- OPEN (R6, D10): the contents of `SATLUT` in the reference configuration. -/
opaque Config.satlut : Table

/-- OPEN (R6, D10): the contents of `GAMMA` in the reference configuration. -/
opaque Config.gamma : Table

/-- OPEN (R6, D9): `FRAME_MIN_TICKS` in the reference configuration. -/
opaque Config.frameMinTicks : Word

/-- Converter parameter number `k` (R180): hue, saturation, value to a logical colour. -/
opaque Config.hsv2rgb : Nat → Byte → Byte → Byte → Color

/-- OPEN (R140, D13): `PRNG_FROM_SEED` of generator parameter `k`. -/
opaque Config.prngFromSeed : Nat → Seed → Gen

/-- OPEN (R140, D13): `PRNG_NEXT_U32` of generator parameter `k`. -/
opaque Config.prngNextU32 : Nat → Gen → Word × Gen

/-- OPEN (R140, D13): `PRNG_NEXT_U64` of generator parameter `k`. -/
opaque Config.prngNextU64 : Nat → Gen → BitVec 64 × Gen

/-- Free value (R20, R276): who takes the `n`-th turn, where no turn is laid out in the state. -/
opaque Config.freeTurn : Nat → Turn

/-- Free value (R141, U6): the answer to the `n`-th `Entropy()` call not laid out in the state. -/
opaque Config.freeEntropy : Nat → EntropyAnswer

/-- Free value (R124, D23): what the `n`-th sample of `RES_OK` not laid out in the state reads. -/
opaque Config.freeResOk : Nat → Bool

/-- Free value (R188, U8): the `n`-th answer of the transmitter not laid out in the state. -/
opaque Config.freeTxAnswer : Nat → TxAnswer

end Sys2Proof
end

