-- ==== Sys2Proof/Machine/Colour.lean ====
section
/-! DEFINITION. The colour arithmetic: the converter `HSV2RGB` (spec 43_composer R180, R181), the
composer's permutation and gamma mapping (R184), the brightness interpolation and the rate draw
(42_pixel R165, R167). All in exact natural numbers, narrowed at the end (R220). -/

namespace Sys2Proof

/-- Black, the logical colour (0, 0, 0) (R180, D32). -/
def Color.black : Color := ⟨0, 0, 0⟩

/-- `f <- ((h × 2) mod 85) × 3` (R181). -/
def hsvF (h : Byte) : Nat := h.toNat * 2 % 85 * 3

/-- `p <- floor(v × (255 − s) / 255)` (R181). -/
def hsvP (s v : Byte) : Nat := v.toNat * (255 - s.toNat) / 255

/-- `q <- floor(v × (255 − floor(s × f / 255)) / 255)` (R181). -/
def hsvQ (h s v : Byte) : Nat := v.toNat * (255 - s.toNat * hsvF h / 255) / 255

/-- `t <- floor(v × (255 − floor(s × (255 − f) / 255)) / 255)` (R181). -/
def hsvT (h s v : Byte) : Nat := v.toNat * (255 - s.toNat * (255 - hsvF h) / 255) / 255

/-- `HSV2RGB_REF` (R181). -/
def hsv2rgbRef (h s v : Byte) : Color :=
  let p := BitVec.ofNat 8 (hsvP s v)
  let q := BitVec.ofNat 8 (hsvQ h s v)
  let t := BitVec.ofNat 8 (hsvT h s v)
  if h.toNat ≤ 42 then ⟨v, t, p⟩
  else if h.toNat ≤ 84 then ⟨q, v, p⟩
  else if h.toNat ≤ 127 then ⟨p, v, t⟩
  else if h.toNat ≤ 169 then ⟨p, q, v⟩
  else if h.toNat ≤ 212 then ⟨t, p, v⟩
  else if h.toNat ≤ 254 then ⟨v, p, q⟩
  else ⟨v, t, p⟩

/-- `HSV2RGB` of a configuration (R180). -/
def Cfg.hsv2rgb (c : Cfg) (h s v : Byte) : Color :=
  match c.converter with
  | .reference => hsv2rgbRef h s v
  | .parameter k => Config.hsv2rgb k h s v

/-- A named channel of a logical colour (R184). -/
def Color.channel (c : Color) (ch : Channel) : Byte :=
  match ch with
  | .r => c.r
  | .g => c.g
  | .b => c.b

/-- One logical colour permuted and gamma-mapped: `(GAMMA[LOG[i].P0], GAMMA[LOG[i].P1],
GAMMA[LOG[i].P2])` (R184). -/
def Cfg.composeColor (c : Cfg) (l : Color) : WireColor :=
  ⟨c.gamma.at (l.channel c.perm.p0), c.gamma.at (l.channel c.perm.p1),
    c.gamma.at (l.channel c.perm.p2)⟩

/-- `BRIGHT(ph)` (R165): the high byte indexes the curve, the low byte blends with the next entry
(wrapping), the sum is shifted down by 8. -/
def Cfg.bright (c : Cfg) (ph : Half) : Byte :=
  let idx : Byte := ph.extractLsb' 8 8
  let f : Byte := ph.extractLsb' 0 8
  let a := (c.curve.at idx).toNat
  let b := (c.curve.at (idx + 1)).toNat
  BitVec.ofNat 8 ((a * (256 - f.toNat) + b * f.toNat) >>> 8)

/-- `RATE(d) = max(128, d[9:0])` (R167). -/
def rateOf (d : Word) : Half :=
  BitVec.ofNat 16 (max Config.rateMin (d.toNat &&& Config.rateMask))

end Sys2Proof
end

