-- ==== Sys2Proof/Machine/Spaces.lean ====
section
/-! DEFINITION. The element-indexed spaces of spec 20_memory R60 as lists in one canonical form (log
entry 7): reading and writing one whole element (R65), and the form itself. -/

namespace Sys2Proof.Machine

/-- Element `i` of a space; an unlisted element reads `d`, its value after reset (R35). -/
def readElem {α : Type} (d : α) : Space α → Nat → α
  | [], _ => d
  | (j, v) :: m, i => if i = j then v else readElem d m i

/-- The space with element `i` set to `v`; the canonical form is kept (an element equal to `d` is not
listed). -/
def writeElem {α : Type} [DecidableEq α] (d : α) : Space α → Nat → α → Space α
  | [], i, v => if v = d then [] else [(i, v)]
  | (j, w) :: m, i, v =>
    if i < j then (if v = d then (j, w) :: m else (i, v) :: (j, w) :: m)
    else if i = j then (if v = d then m else (i, v) :: m)
    else (j, w) :: writeElem d m i v

/-- The canonical form of a space of `size` elements, from index `lo` on: strictly rising indexes below
`size`, no entry equal to `d`. -/
def canonFrom {α : Type} [DecidableEq α] (d : α) (size : Nat) : Nat → Space α → Bool
  | _, [] => true
  | lo, (j, v) :: m =>
    decide (lo ≤ j) && decide (j < size) && decide (v ≠ d) && canonFrom d size (j + 1) m

end Sys2Proof.Machine
end

