-- ==== Sys2Proof/Machine/Configuration.lean ====
section
/-! DEFINITION. What is read off a configuration record: the constraints of spec 00_scope R7, the words of
`PROG` (20_memory R60), the scaled clock queries (40_clock R127, R128). -/

namespace Sys2Proof

/-- The three channel names of `PERM` differ (R7). -/
def Perm.isPermutation (p : Perm) : Bool := p.p0 != p.p1 && p.p1 != p.p2 && p.p0 != p.p2

/-- The constraints of R7 that the types leave open; a configuration that breaks one is refused. -/
def Cfg.accepted (c : Cfg) : Bool :=
  decide (1 ≤ c.pixels) && decide (c.pixels ≤ 256) && decide (1 ≤ c.tickHz)
    && decide (1 ≤ c.samplesPerHalf) && decide (c.samplesPerHalf ≤ 4)
    && c.perm.isPermutation

/-- `PROG[i]`; an index never assembled holds 0x0000 (R60, R98, R214). -/
def Cfg.progWord (c : Cfg) (i : Nat) : OpWord := Machine.readElem 0 c.prog i

/-- The configuration with `PROG[i] = w`. -/
def Cfg.withProgWord (c : Cfg) (i : Nat) (w : OpWord) : Cfg :=
  { c with prog := Machine.writeElem 0 c.prog i w }

/-- `floor(e × unit / TICK_HZ) mod 2^32` (R127, R128). -/
def Cfg.scaled (c : Cfg) (unit : Nat) (e : Word) : Word := BitVec.ofNat 32 (e.toNat * unit / c.tickHz)

end Sys2Proof
end

