-- ==== Sys2Proof/Machine/Microprogram.lean ====
section
/-! DEFINITION. The reference microprogram (spec 44_scheduler R214). -/

namespace Sys2Proof.Machine

/-- `PROG` in the reference configuration (R214): ten words; every other index holds 0x0000. -/
def referenceProg : Space OpWord :=
  [ (0x00, 0x1000),   -- CLK.INIT
    (0x01, 0x2000),   -- RNG.SEED
    (0x02, 0x5000),   -- SCH.RETARGET
    (0x03, 0x1110),   -- CLK.NOW x1
    (0x04, 0x5100),   -- SCH.REFRESH
    (0x05, 0x5200),   -- SCH.STEPALL
    (0x06, 0x5300),   -- SCH.WAIT
    (0x07, 0x4000),   -- FRM.COMPOSE
    (0x08, 0x4100),   -- FRM.XMIT
    (0x09, 0x0104) ]  -- SEQ.JMP 0x04

end Sys2Proof.Machine
end

