-- ==== Sys2Proof/Machine/State.lean ====
section
/-! DEFINITION. The architectural state of the CORE (spec 10_state R20 to R36) as plain data, the
reasons a step can stop, and the state after reset (R35). -/

namespace Sys2Proof.Machine

/-- A source of answers from outside the machine: the answers already laid out, in order, and how many
have been taken. Past the laid-out ones the answer is a free value of Config (log entry 2). -/
structure Oracle (α : Type) where
  script : List α
  taken : Nat
  deriving DecidableEq, Repr

/-- A PixelState `{hue, sat, phase, rate}` (R27). -/
structure Pixel where
  hue : Byte
  sat : Byte
  phase : Half
  rate : Half
  deriving DecidableEq, Repr, Inhabited

/-- The four general registers (R21). -/
structure Regs where
  x0 : Word
  x1 : Word
  x2 : Word
  x3 : Word
  deriving DecidableEq, Repr

/-- The RAM spaces of R60. -/
structure Memory where
  /-- `PIX`, the pixel file (R27). -/
  pix : Space Pixel
  /-- `LOG`, the logical colours of the current iteration (R29). -/
  log : Space Color
  /-- `OUT`, the composed frame (R29). -/
  out : Space WireColor
  /-- `SEEDBUF`, the seed being assembled (R26). -/
  seedbuf : List Host.Cell
  deriving DecidableEq, Repr

/-- The transmitter handshake `TXST` (R31). -/
inductive TxState where
  | idle | busy | doneOk | doneFail
  deriving DecidableEq, Repr, Inhabited

/-- The observable event of R189: the time of an initiation and the frame bytes handed over. -/
structure Transmit where
  time : Word
  bytes : List Byte
  deriving DecidableEq, Repr

/-- The fault causes of R231 (an exception of the hardware, taken by `raise`, not a stop of the model). -/
inductive Exc where
  | initializationFailure
  | entropyTimeout
  | transmissionFailure
  | clockDoubleInit
  | illegalOperation
  | indexRange
  | rngNotSeeded
  | rngDoubleSeed
  deriving DecidableEq, Repr, Inhabited

/-- The state of the machine. `cfg`, `schedule`, `entropy`, `resOk`, `txAnswers` and `events` are the
model's own fields (the parameters, the oracle inputs and the observable events of R33 and R189);
every other field is named by a rule of 10_state. -/
structure State where
  /-- The configuration record (R6, R33): carried as data, changed by no step (log entry 1). -/
  cfg : Cfg
  /-- `pc` (R22). -/
  pc : Byte
  /-- `x0` to `x3` (R21). -/
  regs : Regs
  /-- `CNT` (R25). -/
  cnt : Word
  /-- `INITED` (R23). -/
  inited : Bool
  /-- `SEEDED` (R23). -/
  seeded : Bool
  /-- `HALTED` (R23). -/
  halted : Bool
  /-- `GEN` (R26). -/
  gen : Gen
  /-- `SCNT` (R26). -/
  scnt : BitVec 4
  /-- `PIX`, `LOG`, `OUT`, `SEEDBUF` (R60). -/
  mem : Memory
  /-- `TGT_HUE` (R28). -/
  tgtHue : Byte
  /-- `TGT_SAT` (R28). -/
  tgtSat : Byte
  /-- `PIDX` (R29). -/
  pidx : Byte
  /-- `FAULT` (R30). -/
  fault : BitVec 4
  /-- `FPC` (R30). -/
  fpc : Byte
  /-- `TXST` (R31). -/
  txst : TxState
  /-- The `Transmit` events recorded so far, oldest first (R189; log entry 6). -/
  events : List Transmit
  /-- Who takes the next turns (R20, R276). -/
  schedule : Oracle Turn
  /-- The answers of the entropy collaborator (R141). -/
  entropy : Oracle EntropyAnswer
  /-- The readings of the input `RES_OK` (R124). -/
  resOk : Oracle Bool
  /-- The answers of the transmitter (R188). -/
  txAnswers : Oracle TxAnswer
  deriving DecidableEq, Repr

/-- Why the model stops. The hardware's own faults (R231) are no stop: they are taken by `raise` and
give a next state. -/
inductive Fault where
  /-- Raised by `RNG.SEED` and `SCH.STEPALL` in a state that R36 rules out (`SCNT` or `PIDX` past its
  bound), where the rule's element does not exist (R64). No reachable state raises it. Safe: the model
  stops where the spec says nothing (log entry 10). -/
  | noSuchElement
  deriving DecidableEq, Repr

/-- Why the model answers nothing. -/
inductive Refusal where
  /-- Raised by an arm of `exec` for an instruction without a meaning; no arm does. Safe. -/
  | notModelled (mnemonic : String)
  /-- Raised by `step` when the configuration breaks a constraint of R7: such a state is no state of this
  hardware, and R7 says the model refuses it. Safe (log entry 16). -/
  | configurationRefused
  deriving DecidableEq, Repr

/-- The reference configuration (R6): the document's or the decided value where the spec gives one, an
opaque value where it says OPEN (log entries 3, 4, 5). -/
def referenceCfg : Cfg where
  pixels := 100
  tickHz := 1000000
  refreshTicks := 30000000
  frameMinTicks := Config.frameMinTicks
  curve := Config.curve
  satlut := Config.satlut
  gamma := Config.gamma
  perm := ⟨.g, .r, .b⟩
  converter := .reference
  generator := .parameter 0
  samplesPerHalf := 4
  prog := referenceProg

/-- The RAM spaces after reset (R35): nothing listed, every element at its reset value. -/
def Memory.reset : Memory where
  pix := []
  log := []
  out := []
  seedbuf := []

/-- The state right after reset under a configuration (R35). `GEN`, which the spec leaves unspecified,
and the model's own fields have the values of log entries 9 and 15. -/
def State.resetWith (c : Cfg) : State where
  cfg := c
  pc := 0
  regs := ⟨0, 0, 0, 0⟩
  cnt := 0
  inited := false
  seeded := false
  halted := false
  gen := 0
  scnt := 0
  mem := Memory.reset
  tgtHue := 0
  tgtSat := 0
  pidx := 0
  fault := 0
  fpc := 0
  txst := .idle
  events := []
  schedule := ⟨[], 0⟩
  entropy := ⟨[], 0⟩
  resOk := ⟨[], 0⟩
  txAnswers := ⟨[], 0⟩

/-- The state right after reset in the reference configuration (R35, R6). -/
def State.reset : State := State.resetWith referenceCfg

end Sys2Proof.Machine
end

