-- ==== Sys2Proof/Machine/Flags.lean ====
section
/-! DEFINITION. Status flags, predicates and views (spec 10_state R23, R24, R27, R30, R31). The hardware
has no arithmetic condition codes (R23); the carry of the phase adder is used inside one step (R161). -/

namespace Sys2Proof.Machine

/-- `IDLE(i)`: `rate == 0` (R23). -/
def Pixel.isIdle (p : Pixel) : Bool := p.rate == 0

/-- `FADING(i)`: `rate > 0` (R23). -/
def Pixel.isFading (p : Pixel) : Bool := decide (0 < p.rate.toNat)

/-- `s <- zext_17(phase) + zext_17(rate)`, exact (R161). -/
def Pixel.phaseSum (p : Pixel) : BitVec 17 := p.phase.zeroExtend 17 + p.rate.zeroExtend 17

/-- `s[16]`, the overflow test of the phase adder (R161, R220). -/
def Pixel.phaseCarry (p : Pixel) : Bool := p.phaseSum.getLsbD 16

/-- The 48-bit packing `{rate, phase, sat, hue}` of a pixel entry (R27). -/
def Pixel.packed (p : Pixel) : BitVec 48 := p.rate ++ p.phase ++ p.sat ++ p.hue

/-- The code written to `FAULT` (R231). -/
def Exc.code : Exc → BitVec 4
  | .initializationFailure => 1
  | .entropyTimeout => 2
  | .transmissionFailure => 3
  | .clockDoubleInit => 4
  | .illegalOperation => 5
  | .indexRange => 6
  | .rngNotSeeded => 7
  | .rngDoubleSeed => 8

/-- The two bits of `TXST` (R31). -/
def TxState.bits : TxState → BitVec 2
  | .idle => 0
  | .busy => 1
  | .doneOk => 2
  | .doneFail => 3

/-- The read-only host view `STATUS`, system register 0 (R24, R278). -/
def State.status (s : State) : Word :=
  s.pc ++ s.fpc ++ (0 : BitVec 4) ++ s.fault ++ (0 : BitVec 3) ++ s.txst.bits
    ++ BitVec.ofBool s.halted ++ BitVec.ofBool s.seeded ++ BitVec.ofBool s.inited

end Sys2Proof.Machine
end

