-- ==== Sys2Proof/Machine/Operands.lean ====
section
/-! DEFINITION. The operand forms (spec 30_encoding R91, R92; 10_state R21): register operands, the
register pair of format DP, the immediate used as a `pc` target and as a pixel index. -/

namespace Sys2Proof.Machine

/-- `x[r]` (R9, R21). -/
def State.x (s : State) (r : Reg) : Word :=
  match r with
  | .x0 => s.regs.x0
  | .x1 => s.regs.x1
  | .x2 => s.regs.x2
  | .x3 => s.regs.x3

/-- The register file after `x[r] <- v`. -/
def Regs.write (g : Regs) (r : Reg) (v : Word) : Regs :=
  match r with
  | .x0 => { g with x0 := v }
  | .x1 => { g with x1 := v }
  | .x2 => { g with x2 := v }
  | .x3 => { g with x3 := v }

/-- `x[r] <- v` (R9); no register is hardwired (R21). -/
def State.setX (s : State) (r : Reg) (v : Word) : State := { s with regs := s.regs.write r v }

/-- The number of `x[rd + 1]`, the high half of the pair of format DP (R92). For an odd `rd`, which the
format does not admit, the register itself stands in (no meaning uses it). -/
def pairHigh (rd : Reg) : Reg :=
  match rd with
  | .x0 => .x1
  | .x1 => .x1
  | .x2 => .x3
  | .x3 => .x3

/-- The immediate as a pixel index (R92, R161). -/
def pixelIndex (imm : Byte) : Nat := imm.toNat

/-- The immediate as an absolute target in `PROG` (R92, R211). -/
def jumpTarget (imm : Byte) : Byte := imm

end Sys2Proof.Machine
end

