-- ==== Sys2Proof/Machine/Prng.lean ====
section
/-! DEFINITION. The three generator functions of a configuration (spec 41_random R140), and the fixture
generator of 95_test_vectors section 2, which is a test's and not the hardware's (K4, log entry 3). -/

namespace Sys2Proof

/-- `PRNG_NEXT_U32_T`'s next state (95_test_vectors section 2). -/
def fixtureNext (g : Gen) : Gen := (g * 1664525 + 1013904223) % 2 ^ 32

/-- `PRNG_FROM_SEED` (R140). -/
def Cfg.prngFromSeed (c : Cfg) (seed : Seed) : Gen :=
  match c.generator with
  | .parameter k => Config.prngFromSeed k seed
  | .testFixture =>
    seed[0].toNat + 256 * seed[1].toNat + 65536 * seed[2].toNat + 16777216 * seed[3].toNat

/-- `PRNG_NEXT_U32` (R140). -/
def Cfg.prngNextU32 (c : Cfg) (g : Gen) : Word × Gen :=
  match c.generator with
  | .parameter k => Config.prngNextU32 k g
  | .testFixture => (BitVec.ofNat 32 (fixtureNext g), fixtureNext g)

/-- `PRNG_NEXT_U64` (R140). -/
def Cfg.prngNextU64 (c : Cfg) (g : Gen) : BitVec 64 × Gen :=
  match c.generator with
  | .parameter k => Config.prngNextU64 k g
  | .testFixture =>
    (BitVec.ofNat 64 (fixtureNext g + 2 ^ 32 * fixtureNext (fixtureNext g)),
      fixtureNext (fixtureNext g))

end Sys2Proof
end

