-- ==== Sys2Proof/Machine/Ops.lean ====
section
/-! DEFINITION. The named operations the meanings share: memory elements, taking a fault, the default
`pc` advance, the clock read, the draws, one step of a pixel, the seed sample, the frame bytes, and
the steps of the agents other than the sequencer. -/

namespace Sys2Proof.Machine

/-! ### Memory elements (20_memory R60, R64, R65) -/

/-- A pixel entry's reset value: IDLE, all fields 0 (R34, R35). -/
def resetPixel : Pixel := ⟨0, 0, 0, 0⟩

/-- An `OUT` entry's reset value (R35). -/
def resetWire : WireColor := ⟨0, 0, 0⟩

/-- `PIX[i]` (R27). -/
def State.pix (s : State) (i : Nat) : Pixel := readElem resetPixel s.mem.pix i

/-- `LOG[i]` (R29). -/
def State.log (s : State) (i : Nat) : Color := readElem Color.black s.mem.log i

/-- `OUT[i]` (R29). -/
def State.out (s : State) (i : Nat) : WireColor := readElem resetWire s.mem.out i

/-- `SEEDBUF[i]` (R26). -/
def State.seedByte (s : State) (i : Nat) : Byte := readElem 0 s.mem.seedbuf i

/-- `PIX[i] <- p` (R160). -/
def State.setPix (s : State) (i : Nat) (p : Pixel) : State :=
  { s with mem := { s.mem with pix := writeElem resetPixel s.mem.pix i p } }

/-- `LOG[i] <- c` (R160). -/
def State.setLog (s : State) (i : Nat) (c : Color) : State :=
  { s with mem := { s.mem with log := writeElem Color.black s.mem.log i c } }

/-- `OUT` after every element `i < n` is set to `f i` (R184: every entry is rewritten, none is read). -/
def tabulateOut (f : Nat → WireColor) : Nat → Space WireColor
  | 0 => []
  | n + 1 => if f n = resetWire then tabulateOut f n else tabulateOut f n ++ [(n, f n)]

/-- The four bytes of an accepted sample stored at base `b`, least significant byte first (R62). -/
def writeSample (m : List Host.Cell) (b : Nat) (w : Word) : List Host.Cell :=
  writeElem 0 (writeElem 0 (writeElem 0 (writeElem 0 m b (w.extractLsb' 0 8))
    (b + 1) (w.extractLsb' 8 8)) (b + 2) (w.extractLsb' 16 8)) (b + 3) (w.extractLsb' 24 8)

/-- The 32 bytes of `SEEDBUF` as the seed (R142). -/
def seedOf (m : List Host.Cell) : Seed := Vector.ofFn (fun k => readElem 0 m k.val)

/-- The RAM spaces are in canonical form for a configuration of `n` pixels (R60: `N` elements in `PIX`,
`LOG`, `OUT`; 32 in `SEEDBUF`). -/
def Memory.wf (n : Nat) (m : Memory) : Bool :=
  canonFrom resetPixel n 0 m.pix && canonFrom Color.black n 0 m.log
    && canonFrom resetWire n 0 m.out && canonFrom 0 32 0 m.seedbuf

/-! ### Answers from outside (10_state R33) -/

/-- The next answer of a source: the first one laid out, or a free value. -/
def Oracle.answer {α : Type} (free : Nat → α) (o : Oracle α) : α :=
  match o.script with
  | a :: _ => a
  | [] => free o.taken

/-- The source after one answer has been taken. -/
def Oracle.next {α : Type} (o : Oracle α) : Oracle α := ⟨o.script.tail, o.taken + 1⟩

/-- Who takes the next turn (R20). -/
def State.turn (s : State) : Turn := s.schedule.answer Config.freeTurn

/-- What the next `Entropy()` call answers (R141). -/
def State.entropyAnswer (s : State) : EntropyAnswer := s.entropy.answer Config.freeEntropy

/-- What `RES_OK` reads at the next sample (R124). -/
def State.resOkNow (s : State) : Bool := s.resOk.answer Config.freeResOk

/-- What the transmitter answers next (R188). -/
def State.txAnswer (s : State) : TxAnswer := s.txAnswers.answer Config.freeTxAnswer

/-- One turn has been taken. -/
def State.turnTaken (s : State) : State := { s with schedule := s.schedule.next }

/-- One `Entropy()` call has been made (R141). -/
def State.entropyCalled (s : State) : State := { s with entropy := s.entropy.next }

/-- `RES_OK` has been sampled once (R124). -/
def State.resOkSampled (s : State) : State := { s with resOk := s.resOk.next }

/-! ### Sequencing and faults -/

/-- The default advance `pc <- (pc + 1) mod 256` (R201). -/
def State.advance (s : State) : State := { s with pc := s.pc + 1 }

/-- `raise F` (60_exceptions R234): `FAULT <- code(F)`, `FPC <- pc`, `HALTED <- 1`, `pc` stays, and
nothing else changes. There is no vector, no handler and no return (R237): the one way out is
`State.hostReset`. -/
def State.raise (s : State) (e : Exc) : State :=
  { s with fault := e.code, fpc := s.pc, halted := true }

/-- The state a step ends in: the operation's own, or the fault taken FROM THE STATE BEFORE IT (R234: a
faulting operation writes nothing). -/
def State.settle (s : State) (r : Except Exc State) : State :=
  match r with
  | .ok t => t
  | .error e => s.raise e

/-- The word at `pc` (R200; `pc` is 8 bits into 256 words, R64). -/
def State.fetch (s : State) : OpWord := s.cfg.progWord s.pc.toNat

/-! ### Clock (40_clock) -/

/-- `NOW()`: `CNT` if `INITED = 1`, else 0 (R122). -/
def State.now (s : State) : Word := if s.inited then s.cnt else 0

/-- `(NOW() − start) mod 2^32` (R126). -/
def State.elapsed (s : State) (start : Word) : Word := s.now - start

/-! ### Random source (41_random) -/

/-- `DRAW32()` (R146). -/
def State.draw32 (s : State) : Except Exc (Word × State) :=
  if s.seeded then
    .ok ((s.cfg.prngNextU32 s.gen).1, { s with gen := (s.cfg.prngNextU32 s.gen).2 })
  else .error .rngNotSeeded

/-- The 64-bit draw of `RNG.U64` (R148). -/
def State.draw64 (s : State) : Except Exc (BitVec 64 × State) :=
  if s.seeded then
    .ok ((s.cfg.prngNextU64 s.gen).1, { s with gen := (s.cfg.prngNextU64 s.gen).2 })
  else .error .rngNotSeeded

/-- The base byte `b = 16 × h + 4 × m` of the next sample (R142, R143). -/
def State.sampleBase (s : State) : Nat :=
  16 * (s.scnt.toNat / s.cfg.samplesPerHalf) + 4 * (s.scnt.toNat % s.cfg.samplesPerHalf)

/-- The `Accept(w)` branch of `RNG.SEED` (R143). -/
def State.acceptSample (s : State) (w : Word) : State :=
  let buf := writeSample s.mem.seedbuf s.sampleBase w
  let t := { s with mem := { s.mem with seedbuf := buf }, scnt := s.scnt + 1 }
  if s.scnt.toNat + 1 = 2 * s.cfg.samplesPerHalf then
    State.advance { t with gen := s.cfg.prngFromSeed (seedOf buf), seeded := true }
  else t

/-! ### Pixels (42_pixel) -/

/-- `IDLE_TO_FADING(i)` (R162). -/
def State.idleToFading (s : State) (i : Nat) : Except Exc State :=
  match s.draw32 with
  | .error e => .error e
  | .ok (d, t) => .ok ((t.setPix i ⟨s.tgtHue, s.tgtSat, 0, rateOf d⟩).setLog i Color.black)

/-- `FADING_TO_FADING(i, s[15:0])` (R163): the brightness is that of the phase after the addition. -/
def State.fadingToFading (s : State) (i : Nat) (p : Pixel) : State :=
  let ph : Half := p.phaseSum.extractLsb' 0 16
  (s.setPix i { p with phase := ph }).setLog i (s.cfg.hsv2rgb p.hue p.sat (s.cfg.bright ph))

/-- `FADING_TO_IDLE(i)` (R164): `hue`, `sat`, `phase` keep their values. -/
def State.fadingToIdle (s : State) (i : Nat) (p : Pixel) : State :=
  (s.setPix i { p with rate := 0 }).setLog i Color.black

/-- `STEP_PIXEL(i)` (R161). -/
def State.stepPixel (s : State) (i : Nat) : Except Exc State :=
  if (s.pix i).isIdle then s.idleToFading i
  else if (s.pix i).phaseCarry then .ok (s.fadingToIdle i (s.pix i))
  else .ok (s.fadingToFading i (s.pix i))

/-! ### Frames (43_composer) -/

/-- `FRM.COMPOSE`'s effect on `OUT` (R184). -/
def State.composeFrame (s : State) : State :=
  { s with mem :=
    { s.mem with out := tabulateOut (fun i => s.cfg.composeColor (s.log i)) s.cfg.pixels } }

/-- `FRAME(OUT)`: `3 × N` bytes, pixel 0 first, channels in the device's order (R63). -/
def State.frameBytes (s : State) : List Byte :=
  (List.range s.cfg.pixels).flatMap (fun i => [(s.out i).c0, (s.out i).c1, (s.out i).c2])

/-- The initiating step of `FRM.XMIT` (R187) with the event it records (R189); `pc` stays. -/
def State.initiate (s : State) : State :=
  { s.setX .x1 s.now with txst := .busy, events := s.events ++ [⟨s.now, s.frameBytes⟩] }

/-! ### Targets (44_scheduler) -/

/-- The two draws of a new target and the recorded time (R203, R204): hue first, then the saturation
index. -/
def State.newTarget (s : State) (t : Word) : Except Exc State :=
  match s.draw32 with
  | .error e => .error e
  | .ok (d1, s1) =>
    match s1.draw32 with
    | .error e => .error e
    | .ok (d2, s2) =>
      .ok { s2.setX .x0 t with
        tgtHue := d1.extractLsb' 0 8
        tgtSat := s.cfg.satlut.at (d2.extractLsb' 0 8) }

/-- One step of `SCH.STEPALL` (R206): the pixel at `PIDX`, then `PIDX`; `pc` stays until the last. -/
def State.stepNext (s : State) : Except Exc State :=
  match s.stepPixel s.pidx.toNat with
  | .error e => .error e
  | .ok t =>
    if s.pidx.toNat + 1 = s.cfg.pixels then .ok (State.advance { t with pidx := 0 })
    else .ok { t with pidx := s.pidx + 1 }

/-! ### The other agents (10_state R20) -/

/-- TICK has an enabled step exactly when `INITED = 1` (R121). -/
def State.tickEnabled (s : State) : Bool := s.inited

/-- TX has an enabled step exactly when `TXST = BUSY` (R188). -/
def State.txEnabled (s : State) : Bool := decide (s.txst = .busy)

/-- A TICK turn (R121): enabled exactly when `INITED = 1`. -/
def State.tick (s : State) : State := if s.inited then { s with cnt := s.cnt + 1 } else s

/-- A TX turn (R188): enabled exactly when `TXST = BUSY`. -/
def State.txStep (s : State) : State :=
  match s.txst with
  | .busy =>
    { s with
      txst := (match s.txAnswer with | .ok => .doneOk | .fail => .doneFail)
      txAnswers := s.txAnswers.next }
  | .idle => s
  | .doneOk => s
  | .doneFail => s

/-- The host asserts reset (R260): every piece of state takes its reset value; the configuration, the
outside world's answers and the events already recorded are not state of the block and stay. -/
def State.hostReset (s : State) : State :=
  { State.resetWith s.cfg with
    events := s.events
    schedule := s.schedule
    entropy := s.entropy
    resOk := s.resOk
    txAnswers := s.txAnswers }

end Sys2Proof.Machine
end

