-- ==== Sys2Proof/Machine/Clk.lean ====
section
/-! DEFINITION. The meanings of the CLK unit (spec 40_clock R124 to R128). -/

namespace Sys2Proof.Machine

/-- `CLK.INIT` (R124): the double-initialisation test comes first and samples no `RES_OK`. -/
def execClkInit (s : State) : Host.Outcome State Fault Refusal :=
  .next
    (if s.inited then s.raise .clockDoubleInit
     else if s.resOkNow then
       State.advance { s.resOkSampled with cnt := 0, inited := true }
     else s.resOkSampled.raise .initializationFailure)

/-- `CLK.NOW rd`: `x[rd] <- NOW()` (R125). -/
def execClkNow (rd : Reg) (s : State) : Host.Outcome State Fault Refusal :=
  .next (s.setX rd s.now).advance

/-- `CLK.ELAPSED rd, rs`: `x[rd] <- (NOW() − x[rs]) mod 2^32` (R126). -/
def execClkElapsed (rd rs : Reg) (s : State) : Host.Outcome State Fault Refusal :=
  .next (s.setX rd (s.elapsed (s.x rs))).advance

/-- `CLK.MICROS rd, rs` (R127). -/
def execClkMicros (rd rs : Reg) (s : State) : Host.Outcome State Fault Refusal :=
  .next (s.setX rd (s.cfg.scaled 1000000 (s.elapsed (s.x rs)))).advance

/-- `CLK.MILLIS rd, rs` (R128). -/
def execClkMillis (rd rs : Reg) (s : State) : Host.Outcome State Fault Refusal :=
  .next (s.setX rd (s.cfg.scaled 1000 (s.elapsed (s.x rs)))).advance

end Sys2Proof.Machine
end

