-- ==== Sys2Proof/Machine/Frm.lean ====
section
/-! DEFINITION. The meanings of the FRM unit (spec 43_composer R184, R187). -/

namespace Sys2Proof.Machine

/-- `FRM.COMPOSE` (R184). -/
def execFrmCompose (s : State) : Host.Outcome State Fault Refusal :=
  .next s.composeFrame.advance

/-- One sequencer step of `FRM.XMIT` (R187). While `TXST = BUSY` the sequencer is held: nothing
changes until the transmitter answers (log entry 8). -/
def execFrmXmit (s : State) : Host.Outcome State Fault Refusal :=
  .next
    (match s.txst with
     | .idle => s.initiate
     | .busy => s
     | .doneOk => State.advance { s with txst := .idle }
     | .doneFail => s.raise .transmissionFailure)

end Sys2Proof.Machine
end

