-- ==== Sys2Proof/Machine/Pix.lean ====
section
/-! DEFINITION. The meaning of the PIX unit's operation (spec 42_pixel R161). -/

namespace Sys2Proof.Machine

/-- `PIX.STEP imm` (R161): the index test comes before the step (R236). -/
def execPixStep (imm : Byte) (s : State) : Host.Outcome State Fault Refusal :=
  .next
    (s.settle
      (if pixelIndex imm < s.cfg.pixels then
         match s.stepPixel (pixelIndex imm) with
         | .error e => .error e
         | .ok t => .ok t.advance
       else .error .indexRange))

end Sys2Proof.Machine
end

