-- ==== Sys2Proof/Machine/Rng.lean ====
section
/-! DEFINITION. The meanings of the RNG unit (spec 41_random R143, R147, R148). -/

namespace Sys2Proof.Machine

/-- One step of `RNG.SEED` (R143). When already seeded it faults and makes no `Entropy()` call (R236).
`SEEDBUF` has 32 elements: a sample count past its bound (R36 rules it out) names none, and the model
stops there (log entry 10). -/
def execRngSeed (s : State) : Host.Outcome State Fault Refusal :=
  if s.seeded then .next (s.raise .rngDoubleSeed)
  else if s.sampleBase + 3 < 32 then
    .next
      (match s.entropyAnswer with
       | .timeout => s.entropyCalled.raise .entropyTimeout
       | .needMore => s.entropyCalled
       | .accept w => s.entropyCalled.acceptSample w)
  else .fault .noSuchElement

/-- `RNG.U32 rd`: `x[rd] <- DRAW32()` (R147). -/
def execRngU32 (rd : Reg) (s : State) : Host.Outcome State Fault Refusal :=
  .next
    (s.settle
      (match s.draw32 with
       | .error e => .error e
       | .ok (d, t) => .ok (t.setX rd d).advance))

/-- `RNG.U64 rd` (R148): low word to `x[rd]`, high word to `x[rd + 1]`. A term with an odd `rd` is an
illegal operation (R96), which no word decodes to (log entry 11). -/
def execRngU64 (rd : Reg) (s : State) : Host.Outcome State Fault Refusal :=
  .next
    (s.settle
      (if rd.isEven then
         match s.draw64 with
         | .error e => .error e
         | .ok (q, t) =>
           .ok ((t.setX rd (q.extractLsb' 0 32)).setX (pairHigh rd) (q.extractLsb' 32 32)).advance
       else .error .illegalOperation))

end Sys2Proof.Machine
end

