-- ==== Sys2Proof/Machine/Sch.lean ====
section
/-! DEFINITION. The meanings of the SCH unit (spec 44_scheduler R203, R204, R206, R208). -/

namespace Sys2Proof.Machine

/-- `SCH.RETARGET` (R203). -/
def execSchRetarget (s : State) : Host.Outcome State Fault Refusal :=
  .next
    (s.settle
      (match s.newTarget s.now with
       | .error e => .error e
       | .ok t => .ok t.advance))

/-- `SCH.REFRESH` (R204): due when the elapsed time meets or exceeds `REFRESH_TICKS`, unsigned. -/
def execSchRefresh (s : State) : Host.Outcome State Fault Refusal :=
  .next
    (s.settle
      (if s.cfg.refreshTicks.toNat ≤ (s.elapsed (s.x .x0)).toNat then
         match s.newTarget s.now with
         | .error e => .error e
         | .ok t => .ok t.advance
       else .ok s.advance))

/-- One step of `SCH.STEPALL` (R206), one pixel per step (log entry 12). A `PIDX` at or past `N` (R36
rules it out) names no pixel, and the model stops there (log entry 10). -/
def execSchStepall (s : State) : Host.Outcome State Fault Refusal :=
  if s.pidx.toNat < s.cfg.pixels then .next (s.settle s.stepNext)
  else .fault .noSuchElement

/-- One poll of `SCH.WAIT` (R208). -/
def execSchWait (s : State) : Host.Outcome State Fault Refusal :=
  .next
    (if s.cfg.frameMinTicks.toNat ≤ (s.elapsed (s.x .x1)).toNat then s.advance else s)

end Sys2Proof.Machine
end

