-- ==== Sys2Proof/Machine/Seq.lean ====
section
/-! DEFINITION. The meanings of the SEQ unit (spec 44_scheduler R211, R212). -/

namespace Sys2Proof.Machine

/-- `SEQ.JMP imm`: `pc <- imm` (R211). -/
def execSeqJmp (imm : Byte) (s : State) : Host.Outcome State Fault Refusal :=
  .next { s with pc := jumpTarget imm }

/-- `SEQ.HALT`: `HALTED <- 1`, `pc` stays, `FAULT` and `FPC` stay (R212). -/
def execSeqHalt (s : State) : Host.Outcome State Fault Refusal :=
  .next { s with halted := true }

end Sys2Proof.Machine
end

