-- ==== Sys2Proof/Machine/Dispatch.lean ====
section
/-! DEFINITION. One arm per operation (spec 30_encoding R95). -/

namespace Sys2Proof.Machine

def exec (i : Instr) (s : State) : Host.Outcome State Fault Refusal :=
  match i with
  | .seqJmp imm => Sys2Proof.Machine.execSeqJmp imm s
  | .seqHalt => Sys2Proof.Machine.execSeqHalt s
  | .clkInit => Sys2Proof.Machine.execClkInit s
  | .clkNow rd => Sys2Proof.Machine.execClkNow rd s
  | .clkElapsed rd rs => Sys2Proof.Machine.execClkElapsed rd rs s
  | .clkMicros rd rs => Sys2Proof.Machine.execClkMicros rd rs s
  | .clkMillis rd rs => Sys2Proof.Machine.execClkMillis rd rs s
  | .rngSeed => Sys2Proof.Machine.execRngSeed s
  | .rngU32 rd => Sys2Proof.Machine.execRngU32 rd s
  | .rngU64 rd => Sys2Proof.Machine.execRngU64 rd s
  | .pixStep imm => Sys2Proof.Machine.execPixStep imm s
  | .frmCompose => Sys2Proof.Machine.execFrmCompose s
  | .frmXmit => Sys2Proof.Machine.execFrmXmit s
  | .schRetarget => Sys2Proof.Machine.execSchRetarget s
  | .schRefresh => Sys2Proof.Machine.execSchRefresh s
  | .schStepall => Sys2Proof.Machine.execSchStepall s
  | .schWait => Sys2Proof.Machine.execSchWait s

end Sys2Proof.Machine
end

