-- ==== Sys2Proof/Machine/Sequencer.lean ====
section
/-! DEFINITION. A turn of the sequencer (spec 44_scheduler R200). -/

namespace Sys2Proof.Machine

/-- A SEQ turn (R200): fetch, decode, fault on an illegal word, execute. A halted sequencer has no step,
and the turn passes with nothing changed (log entry 8). -/
def seqTurn (s : State) : Host.Outcome State Fault Refusal :=
  if s.halted then .next s
  else
    match decode s.fetch with
    | .error _ => .next (s.raise .illegalOperation)
    | .ok i => exec i s

/-- SEQ has an enabled step (R200): not halted, and not held at `FRM.XMIT` by a transmission in flight
(R187). -/
def State.seqEnabled (s : State) : Bool :=
  !s.halted && !(decide (decode s.fetch = .ok .frmXmit) && decide (s.txst = .busy))

end Sys2Proof.Machine
end

