-- ==== Sys2Proof/Machine/Step.lean ====
section
/-! DEFINITION. One step of the whole machine, and the placing of an instruction for the next step. -/

namespace Sys2Proof.Machine

/-- One step: the agent whose turn it is takes it (spec 10_state R20). A configuration that R7 rules out
is refused (log entry 16). -/
def step (s : State) : Host.Outcome State Fault Refusal :=
  if s.cfg.accepted then
    match s.turn with
    | .seq => seqTurn s.turnTaken
    | .tick => .next s.turnTaken.tick
    | .tx => .next s.turnTaken.txStep
    | .hostReset => .next s.turnTaken.hostReset
  else .refused .configurationRefused

/-- The state with an operation word placed at `PROG[pc]` and the next turn given to the sequencer (log
entries 1 and 2): a configuration whose `PROG` holds that word, about to run it. -/
def State.withFetchWord (s : State) (nbits w : Nat) : State :=
  { s with
    cfg := s.cfg.withProgWord s.pc.toNat (BitVec.ofNat 16 (w % 2 ^ nbits))
    schedule := ⟨.seq :: s.schedule.script, s.schedule.taken⟩ }

end Sys2Proof.Machine
end

