-- ==== Sys2Proof/Machine/Assembler.lean ====
section
/-! DEFINITION. The assembler syntax and the pseudo-instructions (spec 30_encoding R98, R99), over lists
of characters, so that a microprogram's text gives the contents of `PROG` (log entry 14). -/

namespace Sys2Proof.Machine

/-- Where a jump goes: an immediate, or a label (R98). -/
inductive AsmTarget where
  | imm (n : Byte)
  | label (name : List Char)
  deriving DecidableEq, Repr

/-- One assembled statement: an operation, a jump, a pseudo-instruction (R99) or `.org n` (R98). -/
inductive AsmStmt where
  | op (i : Instr)
  | jump (t : AsmTarget)
  | boot
  | frame
  | spin
  | org (n : Byte)
  deriving DecidableEq, Repr

/-- One line: at most one label, at most one statement (R98). -/
structure AsmLine where
  label : Option (List Char)
  stmt : Option AsmStmt
  deriving DecidableEq, Repr

/-- The operations of `BOOT` (R99). -/
def bootOps : List Instr := [.clkInit, .rngSeed, .schRetarget, .clkNow .x1]

/-- The operations of `FRAME` (R99). -/
def frameOps : List Instr := [.schRefresh, .schStepall, .schWait, .frmCompose, .frmXmit]

/-- How many words a statement takes. -/
def AsmStmt.size : AsmStmt → Nat
  | .op _ => 1
  | .jump _ => 1
  | .boot => bootOps.length
  | .frame => frameOps.length
  | .spin => 1
  | .org _ => 0

/-- A blank character: space, tab, carriage return (R98 names none: DESIGN CHOICE, log entry 14). -/
def isBlank (c : Char) : Bool := c == ' ' || c == '\t' || c == '\r'

/-- The text without blanks at its two ends. -/
def trimBlanks (l : List Char) : List Char :=
  ((l.dropWhile isBlank).reverse.dropWhile isBlank).reverse

/-- The parts of a text between occurrences of a character. -/
def splitAtChar (c : Char) : List Char → List (List Char)
  | [] => [[]]
  | x :: xs =>
    if x = c then [] :: splitAtChar c xs
    else
      match splitAtChar c xs with
      | [] => [[x]]
      | y :: ys => (x :: y) :: ys

/-- The value of a hexadecimal digit. -/
def digitValue (c : Char) : Option Nat :=
  if '0' ≤ c ∧ c ≤ '9' then some (c.toNat - '0'.toNat)
  else if 'a' ≤ c ∧ c ≤ 'f' then some (c.toNat - 'a'.toNat + 10)
  else if 'A' ≤ c ∧ c ≤ 'F' then some (c.toNat - 'A'.toNat + 10)
  else none

/-- A numeral in a base, read on from `acc`. -/
def parseDigits (base : Nat) : Nat → List Char → Option Nat
  | acc, [] => some acc
  | acc, c :: cs =>
    match digitValue c with
    | some d => if d < base then parseDigits base (acc * base + d) cs else none
    | none => none

/-- A decimal number or `0x` hexadecimal, 0 to 255 (R98). Leading zeros and hexadecimal digits of either
case are read, `0X` is not (R98 is silent: DESIGN CHOICE, log entry 14). -/
def parseImm (l : List Char) : Option Byte :=
  let n :=
    match l with
    | [] => none
    | '0' :: 'x' :: [] => none
    | '0' :: 'x' :: ds => parseDigits 16 0 ds
    | ds => parseDigits 10 0 ds
  match n with
  | some v => if v < 256 then some (BitVec.ofNat 8 v) else none
  | none => none

/-- A register name or alias (R98). -/
def parseReg (l : List Char) : Option Reg :=
  if l = "x0".toList ∨ l = "tref".toList then some .x0
  else if l = "x1".toList ∨ l = "tfrm".toList then some .x1
  else if l = "x2".toList then some .x2
  else if l = "x3".toList then some .x3
  else none

/-- A jump target: an immediate, else the name of a label. A text that starts with a digit is never read as
a name here, and one that is a register's or a mnemonic's name is (R98 is silent: DESIGN CHOICE, log
entry 14). -/
def parseTarget (l : List Char) : Option AsmTarget :=
  match parseImm l with
  | some n => some (.imm n)
  | none =>
    match l with
    | [] => none
    | c :: cs => if '0' ≤ c ∧ c ≤ '9' then none else some (.label (c :: cs))

/-- The operations without an operand (format Z) and the pseudo-instructions without one. -/
def plainStmts : List (String × AsmStmt) :=
  [ ("SEQ.HALT", .op .seqHalt), ("CLK.INIT", .op .clkInit), ("RNG.SEED", .op .rngSeed),
    ("FRM.COMPOSE", .op .frmCompose), ("FRM.XMIT", .op .frmXmit),
    ("SCH.RETARGET", .op .schRetarget), ("SCH.REFRESH", .op .schRefresh),
    ("SCH.STEPALL", .op .schStepall), ("SCH.WAIT", .op .schWait),
    ("BOOT", .boot), ("FRAME", .frame), ("SPIN", .spin) ]

/-- The operations with a destination register alone (formats D and DP). -/
def destOps : List (String × (Reg → Instr)) :=
  [("CLK.NOW", .clkNow), ("RNG.U32", .rngU32), ("RNG.U64", .rngU64)]

/-- The operations with a destination and a source register (format DS). -/
def destSrcOps : List (String × (Reg → Reg → Instr)) :=
  [("CLK.ELAPSED", .clkElapsed), ("CLK.MICROS", .clkMicros), ("CLK.MILLIS", .clkMillis)]

/-- A statement from its mnemonic and its operands (R98); an operation that is not well formed is
refused. -/
def parseStmt (m : List Char) (ops : List (List Char)) : Option AsmStmt :=
  match ops with
  | [] => (plainStmts.find? (fun r => decide (r.1.toList = m))).map (fun r => r.2)
  | [a] =>
    if m = "SEQ.JMP".toList ∨ m = "LOOP".toList then (parseTarget a).map .jump
    else if m = "PIX.STEP".toList then (parseImm a).map (fun n => .op (.pixStep n))
    else if m = ".org".toList then (parseImm a).map .org
    else
      match destOps.find? (fun r => decide (r.1.toList = m)), parseReg a with
      | some r, some rd => if (r.2 rd).wellFormed then some (.op (r.2 rd)) else none
      | _, _ => none
  | [a, b] =>
    match destSrcOps.find? (fun r => decide (r.1.toList = m)), parseReg a, parseReg b with
    | some r, some rd, some rs => some (.op (r.2 rd rs))
    | _, _, _ => none
  | _ :: _ :: _ :: _ => none

/-- The statement part of a line: nothing, or a mnemonic and operands separated by commas (R98). Blanks end
the mnemonic, may stand around the statement and around a comma, and need not follow one; an empty operand
is refused (R98 is silent: DESIGN CHOICE, log entry 14). -/
def parseBody (l : List Char) : Option (Option AsmStmt) :=
  let t := trimBlanks l
  match t with
  | [] => some none
  | _ :: _ =>
    let m := t.takeWhile (fun c => !isBlank c)
    let r := trimBlanks (t.dropWhile (fun c => !isBlank c))
    let ops := match r with | [] => [] | _ :: _ => (splitAtChar ',' r).map trimBlanks
    (parseStmt m ops).map some

/-- One line of text: `;` starts a comment, `name:` at the start is a label (R98). R98 does not say which
characters a name may hold. The model takes as the name any text before the colon that is not empty once the
blanks at its ends are dropped, with letters of either case kept apart: inner blanks, commas, digits and
signs, a mnemonic, a register name or a numeral are all names. Blanks before the name and before the colon
are allowed, and a second colon is refused (DESIGN CHOICE, log entry 14). -/
def parseLine (l : List Char) : Option AsmLine :=
  let t := l.takeWhile (fun c => c != ';')
  match splitAtChar ':' t with
  | [body] => (parseBody body).map (fun b => ⟨none, b⟩)
  | [name, body] =>
    match trimBlanks name with
    | [] => none
    | n :: ns => (parseBody body).map (fun b => ⟨some (n :: ns), b⟩)
  | _ => none

/-- The index after a statement that stands at `at_` (R98: `.org n` sets it). -/
def AsmStmt.nextIndex (st : AsmStmt) (at_ : Nat) : Nat :=
  match st with
  | .org n => n.toNat
  | st => at_ + st.size

/-- The label table: each label means the index of its line's first word (R98). A line with no word of its
own has no such index, and R98 is silent there (DESIGN CHOICE, log entry 14): a label alone on its line means
the index of the next word, and a label on a line whose statement is `.org n` means `n`, the index AFTER
`.org` takes effect. -/
def labelsFrom : Nat → List AsmLine → List (List Char × Nat)
  | _, [] => []
  | at_, l :: ls =>
    let here := match l.stmt with | some (.org n) => n.toNat | _ => at_
    let after := match l.stmt with | some st => st.nextIndex at_ | none => at_
    match l.label with
    | some n => (n, here) :: labelsFrom after ls
    | none => labelsFrom after ls

/-- The index a jump target means (R98). A label may stand before or after its uses, and the first of two of
one name is the one meant; a label that is nowhere, or that means index 256, is refused (DESIGN CHOICE, log
entry 14). -/
def AsmTarget.resolve (labels : List (List Char × Nat)) : AsmTarget → Option Byte
  | .imm n => some n
  | .label name =>
    match labels.find? (fun r => decide (r.1 = name)) with
    | some r => if r.2 < 256 then some (BitVec.ofNat 8 r.2) else none
    | none => none

/-- The operations a statement at index `at_` expands to (R99). -/
def AsmStmt.expand (labels : List (List Char × Nat)) (at_ : Nat) : AsmStmt → Option (List Instr)
  | .op i => some [i]
  | .jump t => (t.resolve labels).map (fun n => [.seqJmp n])
  | .boot => some bootOps
  | .frame => some frameOps
  | .spin => some [.seqJmp (BitVec.ofNat 8 at_)]
  | .org _ => some []

/-- Words placed from index `at_` on. R98 does not say what a text whose words run past `PROG[255]` means: the
model neither wraps to index 0 nor drops the words but refuses the whole text (DESIGN CHOICE, log entry 14). -/
def placeWords : Nat → List Instr → Space OpWord → Option (Space OpWord)
  | _, [], m => some m
  | at_, i :: is, m =>
    if at_ < 256 then placeWords (at_ + 1) is (writeElem 0 m at_ (encode i)) else none

/-- The lines placed one after the other from index `at_` on. `.org` may go back, and a later word then
replaces an earlier one (R98 is silent: DESIGN CHOICE, log entry 14). -/
def placeLines (labels : List (List Char × Nat)) :
    Nat → List AsmLine → Space OpWord → Option (Space OpWord)
  | _, [], m => some m
  | at_, l :: ls, m =>
    match l.stmt with
    | none => placeLines labels at_ ls m
    | some st =>
      match st.expand labels at_ with
      | none => none
      | some is =>
        match placeWords at_ is m with
        | none => none
        | some m' => placeLines labels (st.nextIndex at_) ls m'

/-- The contents of `PROG` a text assembles to (R98); words never assembled hold 0x0000. Lines end at a line
feed, assembly starts at index 0, and one line that cannot be read refuses the whole text (R98 is silent:
DESIGN CHOICE, log entry 14). -/
def assemble (text : List Char) : Option (Space OpWord) :=
  match (splitAtChar '\n' text).mapM parseLine with
  | none => none
  | some ls => placeLines (labelsFrom 0 ls) 0 ls []

end Sys2Proof.Machine
end

