-- ==== Sys2Proof/Safety.lean ====
section
/-! DEFINITION. Runs, ends and named properties, in the terms claims use: the end of a run (spec
44_scheduler R213), the invariant of reachable states (10_state R36), and the named assumptions on the
tables that a claim may take (42_pixel R171, 43_composer R186). -/

namespace Sys2Proof.Machine

/-- A run has ended normally (R213). -/
def State.endedNormally (s : State) : Bool :=
  s.halted && decide (s.fault = 0) && decide (s.txst ≠ .busy)

/-- A run has ended in a fault (R213). -/
def State.endedInFault (s : State) : Bool := decide (s.fault ≠ 0)

/-- `rate == 0` or `128 ≤ rate ≤ 1023` (R27, R36 (a)). -/
def Pixel.rateLegal (p : Pixel) : Prop :=
  p.rate = 0 ∨ (128 ≤ p.rate.toNat ∧ p.rate.toNat ≤ 1023)

/-- The invariant of R36, clauses (a) to (e); with it the canonical form of the memory, and that an
unseeded source still lacks a sample (R143 sets `SEEDED` with the last one; DEDUCED, log entry 13). -/
structure State.Legal (s : State) : Prop where
  rates : ∀ i, i < s.cfg.pixels → (s.pix i).rateLegal
  pidx : s.pidx.toNat < s.cfg.pixels
  scnt : s.scnt.toNat ≤ 2 * s.cfg.samplesPerHalf
  fault : s.fault ≠ 0 → s.halted = true
  seeded : s.seeded = true → s.scnt.toNat = 2 * s.cfg.samplesPerHalf
  unseeded : s.seeded = false → s.scnt.toNat < 2 * s.cfg.samplesPerHalf
  memory : s.mem.wf s.cfg.pixels = true

/-- A transmission in flight holds the sequencer at `FRM.XMIT`, and the frame handed over is still what
`OUT` holds (R32 (b), R69, R187). -/
structure State.InFlight (s : State) : Prop where
  running : s.halted = false
  atXmit : Sys2Proof.decode s.fetch = .ok .frmXmit
  snapshot : s.events.getLast?.map Transmit.bytes = some s.frameBytes
  started : s.events.getLast?.map Transmit.time = some (s.x .x1)

/-- Whose turn the `j`-th step from `s` is. -/
def State.turnAt (s : State) (j : Nat) : Turn :=
  match s.schedule.script.drop j with
  | a :: _ => a
  | [] => Config.freeTurn (s.schedule.taken + j)

/-- How many of the next `n` turns are TICK turns. -/
def State.ticksIn (s : State) : Nat → Nat
  | 0 => 0
  | n + 1 => s.ticksIn n + (if s.turnAt n = .tick then 1 else 0)

/-- The host asserts no reset in the next `n` turns. -/
def State.noResetIn (s : State) (n : Nat) : Prop := ∀ j, j < n → s.turnAt j ≠ .hostReset

/-- `n` executions of one operation, one after the other, as a microprogram that repeats it makes them. -/
def execRepeat (i : Instr) : Nat → State → Host.Outcome State Fault Refusal
  | 0, s => .next s
  | n + 1, s =>
    match exec i s with
    | .next t => execRepeat i n t
    | .fault r => .fault r
    | .refused r => .refused r

/-- In `t`, pixel `j` and its colour are what `STEP_PIXEL(j)` gave (R161) at the pass's own step for it: the
step after `j` executions of `SCH.STEPALL` from `s`, which found them as they were in `s` (R206). -/
def State.steppedInPass (s : State) (j : Nat) (t : State) : Prop :=
  ∃ u v : State, execRepeat .schStepall j s = .next u ∧ u.pidx.toNat = j ∧
    u.pix j = s.pix j ∧ u.log j = s.log j ∧ u.stepPixel j = .ok v ∧
    t.pix j = v.pix j ∧ t.log j = v.log j

end Sys2Proof.Machine

namespace Sys2Proof

/-- The general registers an operation writes when it completes (R21): its destination operands, and the
implicit destinations `tref` and `tfrm`. -/
def Instr.destinations : Instr → List Reg
  | .seqJmp _ => []
  | .seqHalt => []
  | .clkInit => []
  | .clkNow rd => [rd]
  | .clkElapsed rd _ => [rd]
  | .clkMicros rd _ => [rd]
  | .clkMillis rd _ => [rd]
  | .rngSeed => []
  | .rngU32 rd => [rd]
  | .rngU64 rd => [rd, Machine.pairHigh rd]
  | .pixStep _ => []
  | .frmCompose => []
  | .frmXmit => [.x1]
  | .schRetarget => [.x0]
  | .schRefresh => [.x0]
  | .schStepall => []
  | .schWait => []

/-- The operations that draw from the generator (R146, R148). -/
def Instr.mayDraw : Instr → Bool
  | .seqJmp _ => false
  | .seqHalt => false
  | .clkInit => false
  | .clkNow _ => false
  | .clkElapsed _ _ => false
  | .clkMicros _ _ => false
  | .clkMillis _ _ => false
  | .rngSeed => false
  | .rngU32 _ => true
  | .rngU64 _ => true
  | .pixStep _ => true
  | .frmCompose => false
  | .frmXmit => false
  | .schRetarget => true
  | .schRefresh => true
  | .schStepall => true
  | .schWait => false

/-- The pixel an operation steps: the one its meaning passes to the shared pixel step (R224). -/
def Instr.pixelStepped (s : Machine.State) : Instr → Option Nat
  | .seqJmp _ => none
  | .seqHalt => none
  | .clkInit => none
  | .clkNow _ => none
  | .clkElapsed _ _ => none
  | .clkMicros _ _ => none
  | .clkMillis _ _ => none
  | .rngSeed => none
  | .rngU32 _ => none
  | .rngU64 _ => none
  | .pixStep imm => some (Machine.pixelIndex imm)
  | .frmCompose => none
  | .frmXmit => none
  | .schRetarget => none
  | .schRefresh => none
  | .schStepall => some s.pidx.toNat
  | .schWait => none

/-- The generator state after `n` draws of 32 bits (R146, R149). -/
def Cfg.genAfter (c : Cfg) : Nat → Gen → Gen
  | 0, g => g
  | n + 1, g => c.genAfter n (c.prngNextU32 g).2

/-- Assumption `CURVE_UNIMODAL` (R171): rising up to some `k`, falling after it. -/
def Cfg.curveUnimodal (c : Cfg) : Prop :=
  ∃ k : Nat, (∀ j : Nat, j < k → j < 255 →
      (c.curve.at (BitVec.ofNat 8 j)).toNat ≤ (c.curve.at (BitVec.ofNat 8 (j + 1))).toNat) ∧
    (∀ j : Nat, k ≤ j → j < 255 →
      (c.curve.at (BitVec.ofNat 8 (j + 1))).toNat ≤ (c.curve.at (BitVec.ofNat 8 j)).toNat)

/-- Assumption `CURVE_WRAP_LOW` (R171): `CURVE[0] ≤ CURVE[255]`. -/
def Cfg.curveWrapLow (c : Cfg) : Prop := (c.curve.at 0).toNat ≤ (c.curve.at 255).toNat

/-- Assumption `CURVE_STARTS_ZERO` (R171). -/
def Cfg.curveStartsZero (c : Cfg) : Prop := c.curve.at 0 = 0

/-- Assumption `GAMMA_ZERO` (R186). -/
def Cfg.gammaZero (c : Cfg) : Prop := c.gamma.at 0 = 0

/-- Assumption `GAMMA_MONOTONE` (R186). -/
def Cfg.gammaMonotone (c : Cfg) : Prop :=
  ∀ j : Nat, j < 255 →
    (c.gamma.at (BitVec.ofNat 8 j)).toNat ≤ (c.gamma.at (BitVec.ofNat 8 (j + 1))).toNat

end Sys2Proof
end

