-- ==== Sys2Proof/Certificates/Slice0/Obligations.lean ====
section
/-! DEFINITION. The statements for the provers, each about the machine and quoting or resting on numbered
rules of spec/. The clock read `NOW()` is written out in them (R122), and a fault is written out as the
record update of R234. -/

open Sys2Proof Sys2Proof.Machine

/-! ### Encoding -/

/-- Decoding the encoding of a well-formed instruction gives it back (R91, R93, R95). -/
def Obligations.DecodeOfEncode : Prop :=
  ∀ i : Instr, i.wellFormed = true → decode (encode i) = .ok i

/-- A word that decodes is the encoding of what it decodes to, and that is well formed: no two words mean
the same operation (R91, R93, R95). -/
def Obligations.EncodeOfDecode : Prop :=
  ∀ (w : OpWord) (i : Instr), decode w = .ok i → encode i = w ∧ i.wellFormed = true

/-- R93: a word selects the operation of the unique row it matches; the match sets are pairwise
disjoint; a word that matches no row is illegal; the decoder answers on every word. -/
def Obligations.DecoderFollowsTheUniqueRow : Prop :=
  ∀ w : OpWord,
    (∀ (a b : Nat) (ra rb : OpcodeRow), opcodeRows[a]? = some ra → opcodeRows[b]? = some rb →
      w &&& ra.mask = ra.pattern → w &&& rb.mask = rb.pattern → a = b) ∧
    (∀ r ∈ opcodeRows, w &&& r.mask = r.pattern → decode w = .ok (r.build w)) ∧
    ((∀ r ∈ opcodeRows, w &&& r.mask ≠ r.pattern) → decode w = .error (.illegalOperation w))

/-- R95, R91, R92: every row's bit pattern, its operand bits at every value, decodes to its operation
with those operands. -/
def Obligations.PatternsOfTheOpcodeMap : Prop :=
  (∀ imm : Byte, decode ((0x01 : Byte) ++ imm) = .ok (.seqJmp imm)) ∧
  decode 0x0200 = .ok .seqHalt ∧
  decode 0x1000 = .ok .clkInit ∧
  (∀ d : BitVec 2, decode ((0x11 : Byte) ++ (0 : BitVec 2) ++ d ++ (0 : BitVec 4)) =
    .ok (.clkNow (Reg.ofBits d))) ∧
  (∀ d s : BitVec 2, decode ((0x12 : Byte) ++ (0 : BitVec 2) ++ d ++ (0 : BitVec 2) ++ s) =
    .ok (.clkElapsed (Reg.ofBits d) (Reg.ofBits s))) ∧
  (∀ d s : BitVec 2, decode ((0x13 : Byte) ++ (0 : BitVec 2) ++ d ++ (0 : BitVec 2) ++ s) =
    .ok (.clkMicros (Reg.ofBits d) (Reg.ofBits s))) ∧
  (∀ d s : BitVec 2, decode ((0x14 : Byte) ++ (0 : BitVec 2) ++ d ++ (0 : BitVec 2) ++ s) =
    .ok (.clkMillis (Reg.ofBits d) (Reg.ofBits s))) ∧
  decode 0x2000 = .ok .rngSeed ∧
  (∀ d : BitVec 2, decode ((0x21 : Byte) ++ (0 : BitVec 2) ++ d ++ (0 : BitVec 4)) =
    .ok (.rngU32 (Reg.ofBits d))) ∧
  (∀ d : BitVec 1, decode ((0x22 : Byte) ++ (0 : BitVec 2) ++ d ++ (0 : BitVec 5)) =
    .ok (.rngU64 (Reg.ofBits (d ++ (0 : BitVec 1))))) ∧
  (∀ imm : Byte, decode ((0x30 : Byte) ++ imm) = .ok (.pixStep imm)) ∧
  decode 0x4000 = .ok .frmCompose ∧
  decode 0x4100 = .ok .frmXmit ∧
  decode 0x5000 = .ok .schRetarget ∧
  decode 0x5100 = .ok .schRefresh ∧
  decode 0x5200 = .ok .schStepall ∧
  decode 0x5300 = .ok .schWait

/-- R96: the words it lists match no row, and a SEQ turn at a word that matches no row raises
`IllegalOperation` (code 5) and changes no other state. -/
def Obligations.IllegalWordsRaiseIllegalOperation : Prop :=
  (∀ w : OpWord,
    (6 ≤ (unitField w).toNat ∨
     (unitField w = 0 ∧ (fnField w = 0 ∨ 3 ≤ (fnField w).toNat)) ∨
     (unitField w = 1 ∧ 5 ≤ (fnField w).toNat) ∨
     (unitField w = 2 ∧ 3 ≤ (fnField w).toNat) ∨
     (unitField w = 3 ∧ 1 ≤ (fnField w).toNat) ∨
     (unitField w = 4 ∧ 2 ≤ (fnField w).toNat) ∨
     (unitField w = 5 ∧ 4 ≤ (fnField w).toNat) ∨
     ((w &&& 0xFF00 = 0x0200 ∨ w &&& 0xFF00 = 0x1000 ∨ w &&& 0xFF00 = 0x2000 ∨
        w &&& 0xFE00 = 0x4000 ∨ w &&& 0xFC00 = 0x5000) ∧ w &&& 0x00FF ≠ 0) ∨
     ((w &&& 0xFF00 = 0x1100 ∨ w &&& 0xFF00 = 0x2100) ∧ w &&& 0x00CF ≠ 0) ∨
     ((w &&& 0xFF00 = 0x1200 ∨ w &&& 0xFF00 = 0x1300 ∨ w &&& 0xFF00 = 0x1400) ∧
        w &&& 0x00CC ≠ 0) ∨
     (w &&& 0xFF00 = 0x2200 ∧ w &&& 0x00DF ≠ 0)) →
    ∀ r ∈ opcodeRows, w &&& r.mask ≠ r.pattern) ∧
  (∀ s : State, s.cfg.accepted = true → s.turn = .seq → s.halted = false →
    (∀ r ∈ opcodeRows, s.fetch &&& r.mask ≠ r.pattern) →
    step s = .next { s.turnTaken with fault := 5, fpc := s.pc, halted := true })

/-- A sanity check of a few words written out from R95 (95_test_vectors 3.1). -/
def Obligations.SampleWordsDecode : Prop :=
  decodeTableWord 16 0x0104 = some (.seqJmp 4) ∧
  decodeTableWord 16 0x1232 = some (.clkElapsed .x3 .x2) ∧
  decodeTableWord 16 0x2220 = some (.rngU64 .x2) ∧
  decodeTableWord 16 0x3063 = some (.pixStep 99) ∧
  decodeTableWord 16 0x4100 = some .frmXmit ∧
  decodeTableWord 16 0x5300 = some .schWait ∧
  decodeTableWord 16 0x2210 = none ∧
  decodeTableWord 16 0x0000 = none

/-! ### Turns, reset and the configuration -/

/-- A SEQ turn runs the decoded instruction: the step is `exec` of it, in the state whose schedule has
moved past this turn (log entry 2), and nothing else is added around `exec`. -/
def Obligations.StepRunsTheDecodedInstruction : Prop :=
  ∀ (s : State) (i : Instr), s.cfg.accepted = true → s.turn = .seq → s.halted = false →
    decode s.fetch = .ok i → step s = exec i s.turnTaken

/-- A word placed by `withFetchWord` is what the very next step runs: the step is `exec` of it in the given
state with that word at `PROG[pc]` and one turn counted. No other word of `PROG`, nothing else of the
configuration and no laid-out turn changes (log entries 1 and 2: the model's own). -/
def Obligations.PlacedWordRunsNext : Prop :=
  ∀ (s : State) (w : Nat) (i : Instr), s.cfg.accepted = true → s.halted = false →
    canonFrom 0 256 0 s.cfg.prog = true → w < 65536 → decodeTableWord 16 w = some i →
    ∃ t : State,
      t = { s with
        cfg := s.cfg.withProgWord s.pc.toNat (BitVec.ofNat 16 w)
        schedule := ⟨s.schedule.script, s.schedule.taken + 1⟩ } ∧
      step (s.withFetchWord 16 w) = exec i t ∧ t.fetch = BitVec.ofNat 16 w ∧
      (∀ k : Nat, k ≠ s.pc.toNat → t.cfg.progWord k = s.cfg.progWord k) ∧
      { t with cfg := { t.cfg with prog := s.cfg.prog }, schedule := s.schedule } = s

/-- The model's choice (log entry 8): a turn of an agent that has no enabled step passes, and only the
schedule moves. Which steps are enabled is R121, R188 and R200. -/
def Obligations.TurnWithoutAnEnabledStepPasses : Prop :=
  ∀ s : State, s.cfg.accepted = true →
    (s.turn = .seq → (s.halted = true ∨ (decode s.fetch = .ok .frmXmit ∧ s.txst = .busy)) →
      step s = .next s.turnTaken) ∧
    (s.turn = .tick → s.inited = false → step s = .next s.turnTaken) ∧
    (s.turn = .tx → s.txst ≠ .busy → step s = .next s.turnTaken)

/-- R121: a TICK step adds one to `CNT` modulo 2^32 and changes nothing else, whatever the sequencer's
state; it is enabled exactly when `INITED = 1`. -/
def Obligations.TickTurnCountsOne : Prop :=
  ∀ s : State, s.cfg.accepted = true → s.turn = .tick →
    step s = .next
      { s.turnTaken with
        cnt := if s.inited = true then BitVec.ofNat 32 ((s.cnt.toNat + 1) % 2 ^ 32) else s.cnt }

/-- R188: a TX step moves `TXST` from BUSY to DONE_OK or DONE_FAIL as the collaborator answers, and
changes nothing else (the answer is taken from the collaborator, log entry 2). -/
def Obligations.TxTurnAnswersTheTransmission : Prop :=
  ∀ s : State, s.cfg.accepted = true → s.turn = .tx → s.txst = .busy →
    (s.txAnswer = .ok →
      step s = .next { s.turnTaken with txst := .doneOk, txAnswers := s.txAnswers.next }) ∧
    (s.txAnswer = .fail →
      step s = .next { s.turnTaken with txst := .doneFail, txAnswers := s.txAnswers.next })

/-- R35: the reset value of every piece of state whose value the spec gives (`GEN` is unspecified and is
left out), in every configuration. -/
def Obligations.ResetStateIsComplete : Prop :=
  ∀ (c : Cfg) (s : State), s = State.resetWith c →
    s.pc = 0 ∧ (∀ r : Reg, s.x r = 0) ∧ s.cnt = 0 ∧ s.inited = false ∧ s.seeded = false ∧
    (∀ k : Nat, k < 32 → s.seedByte k = 0) ∧ s.scnt = 0 ∧
    (∀ i : Nat, i < c.pixels → s.pix i = ⟨0, 0, 0, 0⟩) ∧ s.tgtHue = 0 ∧ s.tgtSat = 0 ∧
    (∀ i : Nat, i < c.pixels → s.log i = ⟨0, 0, 0⟩) ∧
    (∀ i : Nat, i < c.pixels → s.out i = ⟨0, 0, 0⟩) ∧
    s.pidx = 0 ∧ s.fault = 0 ∧ s.fpc = 0 ∧ s.halted = false ∧ s.txst = .idle

/-- R260: reset may come in any state; it gives every piece of state its reset value and leaves the
configuration unchanged. `GEN`, for which R35 gives no reset value, is left out: what it holds is the
model's choice (log entry 9). That the recorded events stay (log entry 6) and that the outside world's
answers stay (log entry 2) are the model's choices too. -/
def Obligations.HostResetFromAnyState : Prop :=
  ∀ s : State, s.cfg.accepted = true → s.turn = .hostReset →
    ∃ t : State, step s = .next t ∧
      { t with gen := s.gen } =
        { State.resetWith s.cfg with
          gen := s.gen
          events := s.events
          schedule := s.turnTaken.schedule
          entropy := s.entropy
          resOk := s.resOk
          txAnswers := s.txAnswers }

/-- R7: the two constants, and that a configuration outside the stated ranges is refused, and only such a
one (tables have 256 entries by their type). -/
def Obligations.ConfigurationOutOfRangeIsRefused : Prop :=
  ∀ s : State,
    Config.rateMask = 0x3FF ∧ Config.rateMin = 128 ∧
    ((step s = .refused .configurationRefused) ↔
      ¬ (1 ≤ s.cfg.pixels ∧ s.cfg.pixels ≤ 256 ∧ 1 ≤ s.cfg.tickHz ∧
          1 ≤ s.cfg.samplesPerHalf ∧ s.cfg.samplesPerHalf ≤ 4 ∧
          s.cfg.perm.p0 ≠ s.cfg.perm.p1 ∧ s.cfg.perm.p1 ≠ s.cfg.perm.p2 ∧
          s.cfg.perm.p0 ≠ s.cfg.perm.p2))

/-- R33, R71: no step of any agent changes the configuration, `PROG` among it. -/
def Obligations.NoStepChangesTheConfiguration : Prop :=
  ∀ s t : State, step s = .next t → t.cfg = s.cfg

/-! ### Registers and views -/

/-- R21: the four registers are 32 bits wide and none is hardwired: a write is read back, and no other
register and no other state changes. -/
def Obligations.RegisterWriteIsReadBack : Prop :=
  ∀ (s : State) (r q : Reg) (v : Word),
    (s.setX r v).x q = (if q = r then v else s.x q) ∧
    { s.setX r v with regs := s.regs } = s

/-- R24: the layout of the read-only `STATUS` view. -/
def Obligations.StatusViewLayout : Prop :=
  (∀ s : State,
    s.status.extractLsb' 0 1 = BitVec.ofBool s.inited ∧
    s.status.extractLsb' 1 1 = BitVec.ofBool s.seeded ∧
    s.status.extractLsb' 2 1 = BitVec.ofBool s.halted ∧
    s.status.extractLsb' 3 2 =
      (match s.txst with | .idle => 0 | .busy => 1 | .doneOk => 2 | .doneFail => 3) ∧
    s.status.extractLsb' 5 3 = 0 ∧
    s.status.extractLsb' 8 4 = s.fault ∧
    s.status.extractLsb' 12 4 = 0 ∧
    s.status.extractLsb' 16 8 = s.fpc ∧
    s.status.extractLsb' 24 8 = s.pc) ∧
  State.reset.status = 0x00000000

/-! ### SEQ and CLK units -/

/-- R211: `SEQ.JMP imm` writes `pc` with its absolute target and changes nothing else. -/
def Obligations.SeqJmpWritesPc : Prop :=
  ∀ (imm : Byte) (s : State), encode (.seqJmp imm) &&& 0xFF00 = 0x0100 ∧
    exec (.seqJmp imm) s = .next { s with pc := imm }

/-- R212: `SEQ.HALT` sets `HALTED`, `pc` stays, `FAULT` and `FPC` stay; after it the sequencer has no
step. -/
def Obligations.SeqHaltStopsTheSequencer : Prop :=
  ∀ s : State, encode .seqHalt = 0x0200 ∧
    exec .seqHalt s = .next { s with halted := true } ∧
    (∀ t : State, exec .seqHalt s = .next t → t.seqEnabled = false)

/-- R124: `CLK.INIT` in its three cases, the double-initialisation test first. -/
def Obligations.ClkInitStartsTheClockOnce : Prop :=
  ∀ s : State, encode .clkInit = 0x1000 ∧
    (s.inited = true →
      exec .clkInit s = .next { s with fault := 4, fpc := s.pc, halted := true }) ∧
    (s.inited = false → s.resOkNow = false →
      exec .clkInit s = .next
        { s with resOk := s.resOk.next, fault := 1, fpc := s.pc, halted := true }) ∧
    (s.inited = false → s.resOkNow = true →
      exec .clkInit s = .next
        { s with resOk := s.resOk.next, cnt := 0, inited := true, pc := s.pc + 1 })

/-- R125, R122: `CLK.NOW rd` writes `NOW()`, and 0 before initialisation. -/
def Obligations.ClkNowReadsTheClock : Prop :=
  ∀ (rd : Reg) (s : State), encode (.clkNow rd) &&& 0xFFCF = 0x1100 ∧
    exec (.clkNow rd) s =
      .next { s.setX rd (if s.inited = true then s.cnt else 0) with pc := s.pc + 1 }

/-- R126: `CLK.ELAPSED rd, rs` writes the modular difference, the old `x[rs]` being read first. -/
def Obligations.ClkElapsedIsModular : Prop :=
  ∀ (rd rs : Reg) (s : State) (n : Word), n = (if s.inited = true then s.cnt else 0) →
    encode (.clkElapsed rd rs) &&& 0xFFCC = 0x1200 ∧
    (∃ t : State, exec (.clkElapsed rd rs) s = .next t ∧
      t = { s.setX rd (t.x rd) with pc := s.pc + 1 } ∧
      (t.x rd).toNat = (2 ^ 32 + n.toNat - (s.x rs).toNat) % 2 ^ 32 ∧
      (n.toNat < (s.x rs).toNat → (t.x rd).toNat = n.toNat + 2 ^ 32 - (s.x rs).toNat) ∧
      (n = s.x rs → t.x rd = 0))

/-- R127: `CLK.MICROS rd, rs`; at the reference tick rate the result is the elapsed ticks themselves. -/
def Obligations.ClkMicrosScalesTheElapsedTicks : Prop :=
  ∀ (rd rs : Reg) (s : State) (e : Word),
    e = (if s.inited = true then s.cnt else 0) - s.x rs →
    encode (.clkMicros rd rs) &&& 0xFFCC = 0x1300 ∧
    (∃ t : State, exec (.clkMicros rd rs) s = .next t ∧
      t = { s.setX rd (t.x rd) with pc := s.pc + 1 } ∧
      (t.x rd).toNat = e.toNat * 1000000 / s.cfg.tickHz % 2 ^ 32 ∧
      (s.cfg.tickHz = 1000000 → t.x rd = e))

/-- R128: `CLK.MILLIS rd, rs`; at the reference tick rate the result is the elapsed ticks divided by 1000
and cannot be truncated. -/
def Obligations.ClkMillisScalesTheElapsedTicks : Prop :=
  ∀ (rd rs : Reg) (s : State) (e : Word),
    e = (if s.inited = true then s.cnt else 0) - s.x rs →
    encode (.clkMillis rd rs) &&& 0xFFCC = 0x1400 ∧
    (∃ t : State, exec (.clkMillis rd rs) s = .next t ∧
      t = { s.setX rd (t.x rd) with pc := s.pc + 1 } ∧
      (t.x rd).toNat = e.toNat * 1000 / s.cfg.tickHz % 2 ^ 32 ∧
      (s.cfg.tickHz = 1000000 →
        (t.x rd).toNat = e.toNat / 1000 ∧ (t.x rd).toNat ≤ 4294967))

/-! ### RNG unit -/

/-- R143: one step of `RNG.SEED` in each of its cases, with the seed bytes written (R62 (a), R142) and
every other byte kept. The entropy cases need the sample count within its bound (R36 (c)). -/
def Obligations.RngSeedStep : Prop :=
  ∀ (s : State) (b : Nat), s.mem.wf s.cfg.pixels = true →
    1 ≤ s.cfg.samplesPerHalf → s.cfg.samplesPerHalf ≤ 4 →
    b = 16 * (s.scnt.toNat / s.cfg.samplesPerHalf) + 4 * (s.scnt.toNat % s.cfg.samplesPerHalf) →
    encode .rngSeed = 0x2000 ∧
    (s.seeded = true →
      exec .rngSeed s = .next { s with fault := 8, fpc := s.pc, halted := true }) ∧
    (s.seeded = false → s.scnt.toNat < 2 * s.cfg.samplesPerHalf →
      (s.entropyAnswer = .timeout →
        exec .rngSeed s = .next
          { s with entropy := s.entropy.next, fault := 2, fpc := s.pc, halted := true }) ∧
      (s.entropyAnswer = .needMore →
        exec .rngSeed s = .next { s with entropy := s.entropy.next }) ∧
      (∀ w : Word, s.entropyAnswer = .accept w →
        ∃ m : List Host.Cell,
          (∀ j : Nat, readElem 0 m j =
            if b ≤ j ∧ j < b + 4 then w.extractLsb' (8 * (j - b)) 8 else s.seedByte j) ∧
          (s.scnt.toNat + 1 ≠ 2 * s.cfg.samplesPerHalf →
            exec .rngSeed s = .next
              { s with
                entropy := s.entropy.next
                mem := { s.mem with seedbuf := m }
                scnt := s.scnt + 1 }) ∧
          (s.scnt.toNat + 1 = 2 * s.cfg.samplesPerHalf →
            exec .rngSeed s = .next
              { s with
                entropy := s.entropy.next
                mem := { s.mem with seedbuf := m }
                scnt := s.scnt + 1
                gen := s.cfg.prngFromSeed (Vector.ofFn (fun k => readElem 0 m k.val))
                seeded := true
                pc := s.pc + 1 })))

/-- R147, R146: `RNG.U32 rd` writes one 32-bit draw and advances the generator once; before seeding it
raises `RngNotSeeded` and writes nothing. -/
def Obligations.RngU32WritesOneDraw : Prop :=
  ∀ (rd : Reg) (s : State), encode (.rngU32 rd) &&& 0xFFCF = 0x2100 ∧
    (s.seeded = true →
      exec (.rngU32 rd) s = .next
        { s.setX rd (s.cfg.prngNextU32 s.gen).1 with
          gen := (s.cfg.prngNextU32 s.gen).2
          pc := s.pc + 1 }) ∧
    (s.seeded = false →
      exec (.rngU32 rd) s = .next { s with fault := 7, fpc := s.pc, halted := true })

/-- R148: `RNG.U64 rd`, `rd` in x0, x2: the low word of the 64-bit draw goes to `x[rd]`, the high word to
`x[rd + 1]`, every other register is kept. -/
def Obligations.RngU64WritesTheRegisterPair : Prop :=
  ∀ (rd hi : Reg) (s : State), (rd = .x0 ∧ hi = .x1) ∨ (rd = .x2 ∧ hi = .x3) →
    encode (.rngU64 rd) &&& 0xFFDF = 0x2200 ∧
    (s.seeded = true →
      ∃ t : State, exec (.rngU64 rd) s = .next t ∧
        (t.x rd).toNat = (s.cfg.prngNextU64 s.gen).1.toNat % 2 ^ 32 ∧
        (t.x hi).toNat = (s.cfg.prngNextU64 s.gen).1.toNat / 2 ^ 32 ∧
        (∀ r : Reg, r ≠ rd → r ≠ hi → t.x r = s.x r) ∧
        t = { s with regs := t.regs, gen := (s.cfg.prngNextU64 s.gen).2, pc := s.pc + 1 }) ∧
    (s.seeded = false →
      exec (.rngU64 rd) s = .next { s with fault := 7, fpc := s.pc, halted := true })

/-! ### PIX unit -/

/-- R161 to R164: `PIX.STEP imm` takes exactly one of the three transitions of its pixel, writes that
pixel and its logical colour and no other, and advances `pc`. The brightness is that of the phase after
the addition. -/
def Obligations.PixStepTakesOneTransition : Prop :=
  ∀ (imm : Byte) (s : State) (p : Pixel), s.mem.wf s.cfg.pixels = true →
    imm.toNat < s.cfg.pixels → p = s.pix imm.toNat →
    encode (.pixStep imm) &&& 0xFF00 = 0x3000 ∧
    ∃ (m : Space Pixel) (l : Space Color),
      (p.rate = 0 → s.seeded = true →
        exec (.pixStep imm) s = .next
          { s with
            pc := s.pc + 1
            gen := (s.cfg.prngNextU32 s.gen).2
            mem := { s.mem with pix := m, log := l } } ∧
        (∀ j : Nat, readElem resetPixel m j =
          if j = imm.toNat then ⟨s.tgtHue, s.tgtSat, 0, rateOf (s.cfg.prngNextU32 s.gen).1⟩
          else s.pix j) ∧
        (∀ j : Nat, readElem Color.black l j =
          if j = imm.toNat then ⟨0, 0, 0⟩ else s.log j)) ∧
      (p.rate ≠ 0 → p.phase.toNat + p.rate.toNat < 65536 →
        exec (.pixStep imm) s = .next
          { s with pc := s.pc + 1, mem := { s.mem with pix := m, log := l } } ∧
        (∀ j : Nat, readElem resetPixel m j =
          if j = imm.toNat then ⟨p.hue, p.sat, p.phase + p.rate, p.rate⟩ else s.pix j) ∧
        (∀ j : Nat, readElem Color.black l j =
          if j = imm.toNat then s.cfg.hsv2rgb p.hue p.sat (s.cfg.bright (p.phase + p.rate))
          else s.log j)) ∧
      (p.rate ≠ 0 → 65536 ≤ p.phase.toNat + p.rate.toNat →
        exec (.pixStep imm) s = .next
          { s with pc := s.pc + 1, mem := { s.mem with pix := m, log := l } } ∧
        (∀ j : Nat, readElem resetPixel m j =
          if j = imm.toNat then ⟨p.hue, p.sat, p.phase, 0⟩ else s.pix j) ∧
        (∀ j : Nat, readElem Color.black l j =
          if j = imm.toNat then ⟨0, 0, 0⟩ else s.log j))

/-- R161, R231, R236: `PIX.STEP` with an index at or past `N` raises `IndexRange`, and only then is the
seed looked at; an IDLE pixel without a seed raises `RngNotSeeded`; a FADING pixel needs no seed. -/
def Obligations.PixStepFaults : Prop :=
  ∀ (imm : Byte) (s : State),
    (s.cfg.pixels ≤ imm.toNat →
      exec (.pixStep imm) s = .next { s with fault := 6, fpc := s.pc, halted := true }) ∧
    (imm.toNat < s.cfg.pixels → (s.pix imm.toNat).rate = 0 → s.seeded = false →
      exec (.pixStep imm) s = .next { s with fault := 7, fpc := s.pc, halted := true }) ∧
    (imm.toNat < s.cfg.pixels → (s.pix imm.toNat).rate ≠ 0 →
      ∃ t : State, exec (.pixStep imm) s = .next t ∧ t.fault = s.fault ∧ t.halted = s.halted ∧
        t.gen = s.gen)

/-- R165: the brightness interpolation: the high byte indexes the curve, the next entry wraps, the low
byte is the weight. -/
def Obligations.BrightnessBlendsTwoCurveEntries : Prop :=
  ∀ (c : Cfg) (ph : Half) (idx f : Nat) (a b : Nat),
    idx = ph.toNat / 256 → f = ph.toNat % 256 →
    a = (c.curve.at (BitVec.ofNat 8 idx)).toNat →
    b = (c.curve.at (BitVec.ofNat 8 ((idx + 1) % 256))).toNat →
    (c.bright ph).toNat = (a * (256 - f) + b * f) / 256

/-- The bounds and exact points the spec derives in R166. -/
def Obligations.BrightnessBounds : Prop :=
  ∀ (c : Cfg) (ph : Half) (idx f : Nat) (a b : Nat),
    idx = ph.toNat / 256 → f = ph.toNat % 256 →
    a = (c.curve.at (BitVec.ofNat 8 idx)).toNat →
    b = (c.curve.at (BitVec.ofNat 8 ((idx + 1) % 256))).toNat →
    a * (256 - f) + b * f ≤ 65280 ∧
    (c.bright ph).toNat ≤ 255 ∧
    (f = 0 → (c.bright ph).toNat = a) ∧
    min a b ≤ (c.bright ph).toNat ∧ (c.bright ph).toNat ≤ max a b ∧
    (idx = 255 → b = (c.curve.at 0).toNat)

/-- R169: for phases that differ by 1 the brightness moves by at most the difference of the two curve
entries in use; inside one segment by at most its 256th part, rounded up; at a segment's end to exactly
the next entry. -/
def Obligations.BrightnessIsContinuous : Prop :=
  ∀ (c : Cfg) (ph : Half) (idx a b d : Nat),
    idx = ph.toNat / 256 →
    a = (c.curve.at (BitVec.ofNat 8 idx)).toNat →
    b = (c.curve.at (BitVec.ofNat 8 ((idx + 1) % 256))).toNat →
    d = max a b - min a b →
    (c.bright (ph + 1)).toNat ≤ (c.bright ph).toNat + d ∧
    (c.bright ph).toNat ≤ (c.bright (ph + 1)).toNat + d ∧
    (ph.toNat % 256 ≠ 255 →
      (c.bright (ph + 1)).toNat ≤ (c.bright ph).toNat + (d + 255) / 256 ∧
      (c.bright ph).toNat ≤ (c.bright (ph + 1)).toNat + (d + 255) / 256) ∧
    (ph.toNat % 256 = 255 → (c.bright (ph + 1)).toNat = b)

/-- R167: `RATE(d) = max(128, d[9:0])`, in [128, 1023], and 128 for every draw whose low ten bits are at
most 128. -/
def Obligations.RateDrawIsMaskedAndFloored : Prop :=
  ∀ d : Word,
    (rateOf d).toNat = max 128 (d.toNat % 1024) ∧
    128 ≤ (rateOf d).toNat ∧ (rateOf d).toNat ≤ 1023 ∧
    (d.toNat % 1024 ≤ 128 → rateOf d = 128)

/-- R168: a pixel that starts IDLE with a drawn rate `r` is FADING with phase `k × r` after its `k`-th
FADING step for `k < ceil(65536 / r)`, showing the colour of that phase, and is IDLE and black after
exactly `ceil(65536 / r)` of them; for `r = 128` that is 512. -/
def Obligations.FadeCycleLength : Prop :=
  ∀ (imm : Byte) (s : State) (r len : Nat), s.mem.wf s.cfg.pixels = true →
    imm.toNat < s.cfg.pixels → (s.pix imm.toNat).rate = 0 → s.seeded = true →
    r = (rateOf (s.cfg.prngNextU32 s.gen).1).toNat → len = (65536 + r - 1) / r →
    (r = 128 → len = 512) ∧
    (∀ k : Nat, k < len →
      ∃ t : State, execRepeat (.pixStep imm) (k + 1) s = .next t ∧
        t.pix imm.toNat = ⟨s.tgtHue, s.tgtSat, BitVec.ofNat 16 (k * r), BitVec.ofNat 16 r⟩ ∧
        t.log imm.toNat =
          (if k = 0 then ⟨0, 0, 0⟩
           else s.cfg.hsv2rgb s.tgtHue s.tgtSat (s.cfg.bright (BitVec.ofNat 16 (k * r))))) ∧
    (∃ t : State, execRepeat (.pixStep imm) (len + 1) s = .next t ∧
      (t.pix imm.toNat).rate = 0 ∧ t.log imm.toNat = ⟨0, 0, 0⟩)

/-! ### FRM unit -/

/-- R181, R182: properties (a) to (f) of the reference converter. -/
def Obligations.ReferenceConverterProperties : Prop :=
  (∀ h s : Byte, hsv2rgbRef h s 0 = ⟨0, 0, 0⟩) ∧
  (∀ h v : Byte, hsv2rgbRef h 0 v = ⟨v, v, v⟩) ∧
  (∀ h s v : Byte,
    (hsv2rgbRef h s v).r.toNat ≤ v.toNat ∧ (hsv2rgbRef h s v).g.toNat ≤ v.toNat ∧
    (hsv2rgbRef h s v).b.toNat ≤ v.toNat ∧
    ((hsv2rgbRef h s v).r = v ∨ (hsv2rgbRef h s v).g = v ∨ (hsv2rgbRef h s v).b = v)) ∧
  (∀ v : Byte, hsvP 255 v = 0) ∧
  (∀ s v : Byte, hsv2rgbRef 255 s v = hsv2rgbRef 0 s v) ∧
  (hsv2rgbRef 0 255 255 = ⟨255, 0, 0⟩ ∧ hsv2rgbRef 85 255 255 = ⟨0, 255, 0⟩ ∧
   hsv2rgbRef 170 255 255 = ⟨0, 0, 255⟩ ∧ hsv2rgbRef 43 255 255 = ⟨252, 255, 0⟩ ∧
   hsv2rgbRef 128 255 255 = ⟨0, 252, 255⟩ ∧ hsv2rgbRef 213 255 255 = ⟨255, 0, 252⟩ ∧
   hsv2rgbRef 254 255 255 = ⟨255, 0, 6⟩ ∧ hsv2rgbRef 84 255 255 = ⟨6, 255, 0⟩ ∧
   hsv2rgbRef 21 128 200 = ⟨200, 149, 99⟩ ∧ hsv2rgbRef 100 200 77 = ⟨16, 77, 38⟩)

/-- R184, R185: `FRM.COMPOSE` rewrites every `OUT[i]`, `i < N`, from `LOG[i]`, `PERM` and `GAMMA` alone,
in one step, and changes nothing else but `pc`. -/
def Obligations.ComposeMapsEveryPixel : Prop :=
  ∀ s : State, encode .frmCompose = 0x4000 ∧
    ∃ m : Space WireColor,
      exec .frmCompose s = .next { s with pc := s.pc + 1, mem := { s.mem with out := m } } ∧
      (∀ i : Nat, i < s.cfg.pixels → readElem resetWire m i =
        ⟨s.cfg.gamma.at ((s.log i).channel s.cfg.perm.p0),
         s.cfg.gamma.at ((s.log i).channel s.cfg.perm.p1),
         s.cfg.gamma.at ((s.log i).channel s.cfg.perm.p2)⟩)

/-- R63: the frame is `3 × N` bytes, pixel 0 first, and inside a pixel the physical channel order. -/
def Obligations.FrameIsPixelMajor : Prop :=
  ∀ s : State, s.frameBytes.length = 3 * s.cfg.pixels ∧
    (∀ i : Nat, i < s.cfg.pixels →
      s.frameBytes[3 * i]? = some (s.out i).c0 ∧
      s.frameBytes[3 * i + 1]? = some (s.out i).c1 ∧
      s.frameBytes[3 * i + 2]? = some (s.out i).c2)

/-- R187, R189: the sequencer steps of `FRM.XMIT` by the value of `TXST`, with the event recorded. That
`exec` answers the same state while BUSY is how the model shows the hold (log entry 8). -/
def Obligations.XmitStep : Prop :=
  ∀ s : State, encode .frmXmit = 0x4100 ∧
    (s.txst = .idle →
      exec .frmXmit s = .next
        { s.setX .x1 (if s.inited = true then s.cnt else 0) with
          txst := .busy
          events := s.events ++ [⟨if s.inited = true then s.cnt else 0, s.frameBytes⟩] }) ∧
    (s.txst = .busy → exec .frmXmit s = .next s) ∧
    (s.txst = .doneOk → exec .frmXmit s = .next { s with txst := .idle, pc := s.pc + 1 }) ∧
    (s.txst = .doneFail →
      exec .frmXmit s = .next { s with fault := 3, fpc := s.pc, halted := true })

/-! ### SCH unit -/

/-- R203: `SCH.RETARGET` draws hue then saturation index, looks the saturation up, records the time;
without a seed it raises `RngNotSeeded` and writes nothing. -/
def Obligations.RetargetDrawsHueThenSaturation : Prop :=
  ∀ (s : State) (d1 d2 : Word) (g1 g2 : Gen),
    s.cfg.prngNextU32 s.gen = (d1, g1) → s.cfg.prngNextU32 g1 = (d2, g2) →
    encode .schRetarget = 0x5000 ∧
    (s.seeded = true →
      exec .schRetarget s = .next
        { s.setX .x0 (if s.inited = true then s.cnt else 0) with
          gen := g2
          tgtHue := d1.extractLsb' 0 8
          tgtSat := s.cfg.satlut.at (d2.extractLsb' 0 8)
          pc := s.pc + 1 }) ∧
    (s.seeded = false →
      exec .schRetarget s = .next { s with fault := 7, fpc := s.pc, halted := true })

/-- R204: `SCH.REFRESH` draws a new target and records the sampled time when the elapsed time meets or
exceeds `REFRESH_TICKS`; else only `pc` moves, seeded or not; it touches no pixel. -/
def Obligations.RefreshWhenDue : Prop :=
  ∀ (s : State) (n : Word) (d1 d2 : Word) (g1 g2 : Gen),
    n = (if s.inited = true then s.cnt else 0) →
    s.cfg.prngNextU32 s.gen = (d1, g1) → s.cfg.prngNextU32 g1 = (d2, g2) →
    encode .schRefresh = 0x5100 ∧
    ((n - s.x .x0).toNat < s.cfg.refreshTicks.toNat →
      exec .schRefresh s = .next { s with pc := s.pc + 1 }) ∧
    (s.cfg.refreshTicks.toNat ≤ (n - s.x .x0).toNat → s.seeded = true →
      exec .schRefresh s = .next
        { s.setX .x0 n with
          gen := g2
          tgtHue := d1.extractLsb' 0 8
          tgtSat := s.cfg.satlut.at (d2.extractLsb' 0 8)
          pc := s.pc + 1 }) ∧
    (s.cfg.refreshTicks.toNat ≤ (n - s.x .x0).toNat → s.seeded = false →
      exec .schRefresh s = .next { s with fault := 7, fpc := s.pc, halted := true })

/-- R206: one step of `SCH.STEPALL` does to pixel `PIDX` what `PIX.STEP PIDX` does, and moves `PIDX`:
back to 0 with `pc` advancing after the last pixel, else up by one with `pc` staying. On a fault
everything is as before. -/
def Obligations.StepallStepsThePixelAtPidx : Prop :=
  ∀ s : State, s.pidx.toNat < s.cfg.pixels →
    encode .schStepall = 0x5200 ∧
    ((s.seeded = true ∨ (s.pix s.pidx.toNat).rate ≠ 0) →
      ∃ t : State, exec (.pixStep s.pidx) s = .next t ∧
        (s.pidx.toNat = s.cfg.pixels - 1 →
          exec .schStepall s = .next { t with pidx := 0 }) ∧
        (s.pidx.toNat ≠ s.cfg.pixels - 1 →
          exec .schStepall s = .next { t with pidx := s.pidx + 1, pc := s.pc })) ∧
    (s.seeded = false → (s.pix s.pidx.toNat).rate = 0 →
      exec .schStepall s = .next { s with fault := 7, fpc := s.pc, halted := true })

/-- R206, R207: from `PIDX = 0` with a seed, `N` steps of `SCH.STEPALL` step every pixel once in ascending
order: after `k < N` of them `PIDX` is `k`, `pc` has stayed, the pixels from `k` on are untouched, and every pixel
below `k` with its colour is what `STEP_PIXEL` gave it at its own step and has been kept since; after `N`
of them this holds of all `N` pixels, `PIDX` is 0 and `pc` has advanced once. -/
def Obligations.StepallPassVisitsEveryPixel : Prop :=
  ∀ s : State, s.mem.wf s.cfg.pixels = true → 1 ≤ s.cfg.pixels → s.cfg.pixels ≤ 256 →
    s.seeded = true → s.pidx = 0 →
    (∀ k : Nat, k < s.cfg.pixels →
      ∃ t : State, execRepeat .schStepall k s = .next t ∧ t.pidx.toNat = k ∧ t.pc = s.pc ∧
        (∀ j : Nat, k ≤ j → t.pix j = s.pix j ∧ t.log j = s.log j) ∧
        (∀ j : Nat, j < k → s.steppedInPass j t)) ∧
    (∃ t : State, execRepeat .schStepall s.cfg.pixels s = .next t ∧ t.pidx = 0 ∧
      t.pc = s.pc + 1 ∧ t.halted = s.halted ∧
      (∀ j : Nat, s.cfg.pixels ≤ j → t.pix j = s.pix j ∧ t.log j = s.log j) ∧
      (∀ j : Nat, j < s.cfg.pixels → s.steppedInPass j t))

/-- R149, R206: over one pass of `SCH.STEPALL` in which every pixel starts IDLE, the pixels take
consecutive draws in ascending index: pixel `k` gets the rate of the `k`-th draw from the pass's start. -/
def Obligations.StepallDrawsInPixelOrder : Prop :=
  ∀ s : State, s.mem.wf s.cfg.pixels = true → s.cfg.pixels ≤ 256 → s.seeded = true → s.pidx = 0 →
    (∀ j : Nat, j < s.cfg.pixels → (s.pix j).rate = 0) →
    ∀ k : Nat, k < s.cfg.pixels →
      ∃ t : State, execRepeat .schStepall (k + 1) s = .next t ∧
        t.gen = s.cfg.genAfter (k + 1) s.gen ∧
        (∀ j : Nat, j ≤ k →
          t.pix j = ⟨s.tgtHue, s.tgtSat, 0,
            rateOf (s.cfg.prngNextU32 (s.cfg.genAfter j s.gen)).1⟩ ∧
          t.log j = ⟨0, 0, 0⟩)

/-- R208: one poll of `SCH.WAIT` writes nothing; `pc` advances when the elapsed time meets or exceeds
`FRAME_MIN_TICKS`, and stays otherwise. -/
def Obligations.WaitPollsTheClock : Prop :=
  ∀ (s : State) (n : Word), n = (if s.inited = true then s.cnt else 0) →
    encode .schWait = 0x5300 ∧
    (s.cfg.frameMinTicks.toNat ≤ (n - s.x .x1).toNat →
      exec .schWait s = .next { s with pc := s.pc + 1 }) ∧
    ((n - s.x .x1).toNat < s.cfg.frameMinTicks.toNat → exec .schWait s = .next s)

/-- R270 (b): with the clock not initialised and the elapsed value below `FRAME_MIN_TICKS`, any number of
polls of `SCH.WAIT` changes nothing: the sequencer polls for ever. -/
def Obligations.WaitWithoutAClockPollsForever : Prop :=
  ∀ (s : State) (n : Nat), s.inited = false →
    ((0 : Word) - s.x .x1).toNat < s.cfg.frameMinTicks.toNat →
    execRepeat .schWait n s = .next s

/-! ### Frames and faults over all operations -/

/-- What each operation leaves unchanged when it answers a next state, over all 17 operations (R21, R23 to
R31, R60, R224): registers but its destinations; the clock but for `CLK.INIT`; the seed state but for
`RNG.SEED`; the generator but for the drawing operations; the targets but for the two target operations;
`PIDX`; the handshake and the events; every pixel and logical colour but the stepped one; every byte of
`SEEDBUF` outside the four bytes stored; every `OUT` entry. -/
def Obligations.OperationFrame : Prop :=
  ∀ (i : Instr) (s t : State), s.mem.wf s.cfg.pixels = true → exec i s = .next t →
    t.cfg = s.cfg ∧ t.schedule = s.schedule ∧ t.txAnswers = s.txAnswers ∧
    (∀ r : Reg, r ∉ i.destinations → t.x r = s.x r) ∧
    (i ≠ .clkInit → t.cnt = s.cnt ∧ t.inited = s.inited ∧ t.resOk = s.resOk) ∧
    (i ≠ .rngSeed → t.seeded = s.seeded ∧ t.scnt = s.scnt ∧ t.entropy = s.entropy) ∧
    (i ≠ .rngSeed → i.mayDraw = false → t.gen = s.gen) ∧
    (i ≠ .schRetarget → i ≠ .schRefresh → t.tgtHue = s.tgtHue ∧ t.tgtSat = s.tgtSat) ∧
    (i ≠ .schStepall → t.pidx = s.pidx) ∧
    (i ≠ .frmXmit → t.txst = s.txst ∧ t.events = s.events) ∧
    (∀ j : Nat, i.pixelStepped s ≠ some j → t.pix j = s.pix j ∧ t.log j = s.log j) ∧
    (∀ j : Nat, (i = .rngSeed → j < s.sampleBase ∨ s.sampleBase + 4 ≤ j) →
      t.seedByte j = s.seedByte j) ∧
    (i ≠ .frmCompose → ∀ j : Nat, t.out j = s.out j) ∧
    ((t.fault = s.fault ∧ t.fpc = s.fpc ∧ (i ≠ .seqHalt → t.halted = s.halted)) ∨
      (t.fault ≠ 0 ∧ t.fpc = s.pc ∧ t.halted = true ∧ t.pc = s.pc))

/-- R234: an operation that takes a fault writes `FAULT`, `FPC` and `HALTED` and nothing else, in any
operation (only the count of answers taken from outside may move, log entry 2). -/
def Obligations.FaultsArePrecise : Prop :=
  ∀ (i : Instr) (s t : State), exec i s = .next t → t.fault ≠ s.fault →
    t = { s with
      entropy := t.entropy
      resOk := t.resOk
      fault := t.fault
      fpc := s.pc
      halted := true } ∧ t.fault.toNat ≤ 8 ∧ t.fault ≠ 0

/-- R272: every operation that draws raises `RngNotSeeded` (code 7) while `SEEDED = 0`, and changes
nothing else. -/
def Obligations.DrawsNeedASeed : Prop :=
  ∀ (i : Instr) (s : State), s.seeded = false → i.wellFormed = true →
    ((∃ rd : Reg, i = .rngU32 rd) ∨ (∃ rd : Reg, i = .rngU64 rd) ∨ i = .schRetarget ∨
     (i = .schRefresh ∧
       s.cfg.refreshTicks.toNat ≤ ((if s.inited = true then s.cnt else 0) - s.x .x0).toNat) ∨
     (∃ imm : Byte, i = .pixStep imm ∧ imm.toNat < s.cfg.pixels ∧ (s.pix imm.toNat).rate = 0) ∨
     (i = .schStepall ∧ s.pidx.toNat < s.cfg.pixels ∧ (s.pix s.pidx.toNat).rate = 0)) →
    exec i s = .next { s with fault := 7, fpc := s.pc, halted := true }

/-- R237, R30: a halted or faulted sequencer changes nothing but what the other agents own, and only reset
leaves that state: `FAULT`, `FPC`, `HALTED` and everything the sequencer writes stay. -/
def Obligations.HaltIsLeftOnlyByReset : Prop :=
  ∀ s t : State, s.halted = true → s.turn ≠ .hostReset → step s = .next t →
    t = { s with
      schedule := s.schedule.next
      cnt := t.cnt
      txst := t.txst
      txAnswers := t.txAnswers }

/-! ### Invariants -/

/-- R36: the legal states include the reset state, in every accepted configuration. -/
def Obligations.ResetStateIsLegal : Prop :=
  State.reset.Legal ∧ ∀ c : Cfg, c.accepted = true → (State.resetWith c).Legal

/-- R36: every step of every agent keeps clauses (a) to (e) and the canonical form of the memory, from
every state that meets them, whatever `PROG` holds. -/
def Obligations.EveryStepKeepsLegal : Prop :=
  ∀ s t : State, s.Legal → step s = .next t → t.Legal

/-- R36 (a), (b), (c): a legal state never stops the model: every step of an accepted configuration answers
a next state. -/
def Obligations.LegalStatesNeverStop : Prop :=
  ∀ s : State, s.Legal → s.cfg.accepted = true → ∃ t : State, step s = .next t

/-- R32 (b), R65, R69, R187: while a transmission is in flight the sequencer stays at `FRM.XMIT` and the
frame handed over and its time are still what `OUT` and `x1` hold; every step keeps this. -/
def Obligations.FrameInFlightIsNotDisturbed : Prop :=
  ∀ s t : State, (s.txst = .busy → s.InFlight) → step s = .next t → (t.txst = .busy → t.InFlight)

/-- R123: from a state with a running clock, after any run without a reset the clock reads its old value
plus the number of TICK turns of the run, modulo 2^32. -/
def Obligations.ClockCountsTheTicksOfARun : Prop :=
  ∀ (s t : State) (n : Nat), s.inited = true → s.noResetIn n → core.run n s = .next t →
    t.inited = true ∧ t.cnt = s.cnt + BitVec.ofNat 32 (s.ticksIn n)

/-- R209: under the reference microprogram, from the state right after an initiation to any later state
about to initiate, with no reset between, at least `FRAME_MIN_TICKS` ticks have passed. (R209 asks for
fewer than 2^32 ticks; the lower bound needs no such premise.) -/
def Obligations.FrameSpacing : Prop :=
  ∀ (s t : State) (n : Nat), s.cfg.prog = referenceProg → s.inited = true → s.halted = false →
    s.pc = 8 → s.txst = .busy → s.x .x1 = s.cnt →
    s.noResetIn n → core.run n s = .next t →
    t.turn = .seq → t.halted = false → t.pc = 8 → t.txst = .idle →
    s.cfg.frameMinTicks.toNat ≤ s.ticksIn n

/-- R215: under the reference microprogram `pc` never leaves 0x00 to 0x09 and no illegal word is ever
fetched, from every state inside that range. -/
def Obligations.ReferenceProgramStaysInItsLoop : Prop :=
  ∀ s t : State, s.cfg.prog = referenceProg → s.pc.toNat ≤ 9 → s.fault ≠ 5 → step s = .next t →
    t.cfg.prog = referenceProg ∧ t.pc.toNat ≤ 9 ∧ t.fault ≠ 5 ∧
    (4 ≤ s.pc.toNat → s.turn ≠ .hostReset → 4 ≤ t.pc.toNat)

/-- R99, R214: `BOOT`, a label, `FRAME` and `LOOP` to it assemble to the reference microprogram. -/
def Obligations.PseudoInstructionsGiveTheReferenceProgram : Prop :=
  assemble "BOOT\nagain: FRAME\n LOOP again ; close the loop".toList = some referenceProg
end

