-- ==== Sys2Proof/Laws/State.lean ====
section
/-! SUPPORT. One lemma per field per named update of State, so that no proof unfolds a record update;
and the reads that go through an accessor (registers, memory elements). -/

namespace Sys2Proof.Machine

/-! ### `State.advance` -/

@[simp] theorem State.advance_cfg (s : State) : s.advance.cfg = s.cfg := rfl
@[simp] theorem State.advance_pc (s : State) : s.advance.pc = s.pc + 1 := rfl
@[simp] theorem State.advance_regs (s : State) : s.advance.regs = s.regs := rfl
@[simp] theorem State.advance_cnt (s : State) : s.advance.cnt = s.cnt := rfl
@[simp] theorem State.advance_inited (s : State) : s.advance.inited = s.inited := rfl
@[simp] theorem State.advance_seeded (s : State) : s.advance.seeded = s.seeded := rfl
@[simp] theorem State.advance_halted (s : State) : s.advance.halted = s.halted := rfl
@[simp] theorem State.advance_gen (s : State) : s.advance.gen = s.gen := rfl
@[simp] theorem State.advance_scnt (s : State) : s.advance.scnt = s.scnt := rfl
@[simp] theorem State.advance_mem (s : State) : s.advance.mem = s.mem := rfl
@[simp] theorem State.advance_tgtHue (s : State) : s.advance.tgtHue = s.tgtHue := rfl
@[simp] theorem State.advance_tgtSat (s : State) : s.advance.tgtSat = s.tgtSat := rfl
@[simp] theorem State.advance_pidx (s : State) : s.advance.pidx = s.pidx := rfl
@[simp] theorem State.advance_fault (s : State) : s.advance.fault = s.fault := rfl
@[simp] theorem State.advance_fpc (s : State) : s.advance.fpc = s.fpc := rfl
@[simp] theorem State.advance_txst (s : State) : s.advance.txst = s.txst := rfl
@[simp] theorem State.advance_events (s : State) : s.advance.events = s.events := rfl
@[simp] theorem State.advance_schedule (s : State) : s.advance.schedule = s.schedule := rfl
@[simp] theorem State.advance_entropy (s : State) : s.advance.entropy = s.entropy := rfl
@[simp] theorem State.advance_resOk (s : State) : s.advance.resOk = s.resOk := rfl
@[simp] theorem State.advance_txAnswers (s : State) : s.advance.txAnswers = s.txAnswers := rfl

/-! ### `State.setX` -/

@[simp] theorem State.setX_cfg (s : State) (r : Reg) (v : Word) : (s.setX r v).cfg = s.cfg := rfl
@[simp] theorem State.setX_pc (s : State) (r : Reg) (v : Word) : (s.setX r v).pc = s.pc := rfl
@[simp] theorem State.setX_regs (s : State) (r : Reg) (v : Word) : (s.setX r v).regs = s.regs.write r v := rfl
@[simp] theorem State.setX_cnt (s : State) (r : Reg) (v : Word) : (s.setX r v).cnt = s.cnt := rfl
@[simp] theorem State.setX_inited (s : State) (r : Reg) (v : Word) : (s.setX r v).inited = s.inited := rfl
@[simp] theorem State.setX_seeded (s : State) (r : Reg) (v : Word) : (s.setX r v).seeded = s.seeded := rfl
@[simp] theorem State.setX_halted (s : State) (r : Reg) (v : Word) : (s.setX r v).halted = s.halted := rfl
@[simp] theorem State.setX_gen (s : State) (r : Reg) (v : Word) : (s.setX r v).gen = s.gen := rfl
@[simp] theorem State.setX_scnt (s : State) (r : Reg) (v : Word) : (s.setX r v).scnt = s.scnt := rfl
@[simp] theorem State.setX_mem (s : State) (r : Reg) (v : Word) : (s.setX r v).mem = s.mem := rfl
@[simp] theorem State.setX_tgtHue (s : State) (r : Reg) (v : Word) : (s.setX r v).tgtHue = s.tgtHue := rfl
@[simp] theorem State.setX_tgtSat (s : State) (r : Reg) (v : Word) : (s.setX r v).tgtSat = s.tgtSat := rfl
@[simp] theorem State.setX_pidx (s : State) (r : Reg) (v : Word) : (s.setX r v).pidx = s.pidx := rfl
@[simp] theorem State.setX_fault (s : State) (r : Reg) (v : Word) : (s.setX r v).fault = s.fault := rfl
@[simp] theorem State.setX_fpc (s : State) (r : Reg) (v : Word) : (s.setX r v).fpc = s.fpc := rfl
@[simp] theorem State.setX_txst (s : State) (r : Reg) (v : Word) : (s.setX r v).txst = s.txst := rfl
@[simp] theorem State.setX_events (s : State) (r : Reg) (v : Word) : (s.setX r v).events = s.events := rfl
@[simp] theorem State.setX_schedule (s : State) (r : Reg) (v : Word) : (s.setX r v).schedule = s.schedule := rfl
@[simp] theorem State.setX_entropy (s : State) (r : Reg) (v : Word) : (s.setX r v).entropy = s.entropy := rfl
@[simp] theorem State.setX_resOk (s : State) (r : Reg) (v : Word) : (s.setX r v).resOk = s.resOk := rfl
@[simp] theorem State.setX_txAnswers (s : State) (r : Reg) (v : Word) : (s.setX r v).txAnswers = s.txAnswers := rfl

/-! ### `State.raise` -/

@[simp] theorem State.raise_cfg (s : State) (e : Exc) : (s.raise e).cfg = s.cfg := rfl
@[simp] theorem State.raise_pc (s : State) (e : Exc) : (s.raise e).pc = s.pc := rfl
@[simp] theorem State.raise_regs (s : State) (e : Exc) : (s.raise e).regs = s.regs := rfl
@[simp] theorem State.raise_cnt (s : State) (e : Exc) : (s.raise e).cnt = s.cnt := rfl
@[simp] theorem State.raise_inited (s : State) (e : Exc) : (s.raise e).inited = s.inited := rfl
@[simp] theorem State.raise_seeded (s : State) (e : Exc) : (s.raise e).seeded = s.seeded := rfl
@[simp] theorem State.raise_halted (s : State) (e : Exc) : (s.raise e).halted = true := rfl
@[simp] theorem State.raise_gen (s : State) (e : Exc) : (s.raise e).gen = s.gen := rfl
@[simp] theorem State.raise_scnt (s : State) (e : Exc) : (s.raise e).scnt = s.scnt := rfl
@[simp] theorem State.raise_mem (s : State) (e : Exc) : (s.raise e).mem = s.mem := rfl
@[simp] theorem State.raise_tgtHue (s : State) (e : Exc) : (s.raise e).tgtHue = s.tgtHue := rfl
@[simp] theorem State.raise_tgtSat (s : State) (e : Exc) : (s.raise e).tgtSat = s.tgtSat := rfl
@[simp] theorem State.raise_pidx (s : State) (e : Exc) : (s.raise e).pidx = s.pidx := rfl
@[simp] theorem State.raise_fault (s : State) (e : Exc) : (s.raise e).fault = e.code := rfl
@[simp] theorem State.raise_fpc (s : State) (e : Exc) : (s.raise e).fpc = s.pc := rfl
@[simp] theorem State.raise_txst (s : State) (e : Exc) : (s.raise e).txst = s.txst := rfl
@[simp] theorem State.raise_events (s : State) (e : Exc) : (s.raise e).events = s.events := rfl
@[simp] theorem State.raise_schedule (s : State) (e : Exc) : (s.raise e).schedule = s.schedule := rfl
@[simp] theorem State.raise_entropy (s : State) (e : Exc) : (s.raise e).entropy = s.entropy := rfl
@[simp] theorem State.raise_resOk (s : State) (e : Exc) : (s.raise e).resOk = s.resOk := rfl
@[simp] theorem State.raise_txAnswers (s : State) (e : Exc) : (s.raise e).txAnswers = s.txAnswers := rfl

/-! ### `State.turnTaken` -/

@[simp] theorem State.turnTaken_cfg (s : State) : s.turnTaken.cfg = s.cfg := rfl
@[simp] theorem State.turnTaken_pc (s : State) : s.turnTaken.pc = s.pc := rfl
@[simp] theorem State.turnTaken_regs (s : State) : s.turnTaken.regs = s.regs := rfl
@[simp] theorem State.turnTaken_cnt (s : State) : s.turnTaken.cnt = s.cnt := rfl
@[simp] theorem State.turnTaken_inited (s : State) : s.turnTaken.inited = s.inited := rfl
@[simp] theorem State.turnTaken_seeded (s : State) : s.turnTaken.seeded = s.seeded := rfl
@[simp] theorem State.turnTaken_halted (s : State) : s.turnTaken.halted = s.halted := rfl
@[simp] theorem State.turnTaken_gen (s : State) : s.turnTaken.gen = s.gen := rfl
@[simp] theorem State.turnTaken_scnt (s : State) : s.turnTaken.scnt = s.scnt := rfl
@[simp] theorem State.turnTaken_mem (s : State) : s.turnTaken.mem = s.mem := rfl
@[simp] theorem State.turnTaken_tgtHue (s : State) : s.turnTaken.tgtHue = s.tgtHue := rfl
@[simp] theorem State.turnTaken_tgtSat (s : State) : s.turnTaken.tgtSat = s.tgtSat := rfl
@[simp] theorem State.turnTaken_pidx (s : State) : s.turnTaken.pidx = s.pidx := rfl
@[simp] theorem State.turnTaken_fault (s : State) : s.turnTaken.fault = s.fault := rfl
@[simp] theorem State.turnTaken_fpc (s : State) : s.turnTaken.fpc = s.fpc := rfl
@[simp] theorem State.turnTaken_txst (s : State) : s.turnTaken.txst = s.txst := rfl
@[simp] theorem State.turnTaken_events (s : State) : s.turnTaken.events = s.events := rfl
@[simp] theorem State.turnTaken_schedule (s : State) : s.turnTaken.schedule = s.schedule.next := rfl
@[simp] theorem State.turnTaken_entropy (s : State) : s.turnTaken.entropy = s.entropy := rfl
@[simp] theorem State.turnTaken_resOk (s : State) : s.turnTaken.resOk = s.resOk := rfl
@[simp] theorem State.turnTaken_txAnswers (s : State) : s.turnTaken.txAnswers = s.txAnswers := rfl

/-! ### `State.entropyCalled` -/

@[simp] theorem State.entropyCalled_cfg (s : State) : s.entropyCalled.cfg = s.cfg := rfl
@[simp] theorem State.entropyCalled_pc (s : State) : s.entropyCalled.pc = s.pc := rfl
@[simp] theorem State.entropyCalled_regs (s : State) : s.entropyCalled.regs = s.regs := rfl
@[simp] theorem State.entropyCalled_cnt (s : State) : s.entropyCalled.cnt = s.cnt := rfl
@[simp] theorem State.entropyCalled_inited (s : State) : s.entropyCalled.inited = s.inited := rfl
@[simp] theorem State.entropyCalled_seeded (s : State) : s.entropyCalled.seeded = s.seeded := rfl
@[simp] theorem State.entropyCalled_halted (s : State) : s.entropyCalled.halted = s.halted := rfl
@[simp] theorem State.entropyCalled_gen (s : State) : s.entropyCalled.gen = s.gen := rfl
@[simp] theorem State.entropyCalled_scnt (s : State) : s.entropyCalled.scnt = s.scnt := rfl
@[simp] theorem State.entropyCalled_mem (s : State) : s.entropyCalled.mem = s.mem := rfl
@[simp] theorem State.entropyCalled_tgtHue (s : State) : s.entropyCalled.tgtHue = s.tgtHue := rfl
@[simp] theorem State.entropyCalled_tgtSat (s : State) : s.entropyCalled.tgtSat = s.tgtSat := rfl
@[simp] theorem State.entropyCalled_pidx (s : State) : s.entropyCalled.pidx = s.pidx := rfl
@[simp] theorem State.entropyCalled_fault (s : State) : s.entropyCalled.fault = s.fault := rfl
@[simp] theorem State.entropyCalled_fpc (s : State) : s.entropyCalled.fpc = s.fpc := rfl
@[simp] theorem State.entropyCalled_txst (s : State) : s.entropyCalled.txst = s.txst := rfl
@[simp] theorem State.entropyCalled_events (s : State) : s.entropyCalled.events = s.events := rfl
@[simp] theorem State.entropyCalled_schedule (s : State) : s.entropyCalled.schedule = s.schedule := rfl
@[simp] theorem State.entropyCalled_entropy (s : State) : s.entropyCalled.entropy = s.entropy.next := rfl
@[simp] theorem State.entropyCalled_resOk (s : State) : s.entropyCalled.resOk = s.resOk := rfl
@[simp] theorem State.entropyCalled_txAnswers (s : State) : s.entropyCalled.txAnswers = s.txAnswers := rfl

/-! ### `State.resOkSampled` -/

@[simp] theorem State.resOkSampled_cfg (s : State) : s.resOkSampled.cfg = s.cfg := rfl
@[simp] theorem State.resOkSampled_pc (s : State) : s.resOkSampled.pc = s.pc := rfl
@[simp] theorem State.resOkSampled_regs (s : State) : s.resOkSampled.regs = s.regs := rfl
@[simp] theorem State.resOkSampled_cnt (s : State) : s.resOkSampled.cnt = s.cnt := rfl
@[simp] theorem State.resOkSampled_inited (s : State) : s.resOkSampled.inited = s.inited := rfl
@[simp] theorem State.resOkSampled_seeded (s : State) : s.resOkSampled.seeded = s.seeded := rfl
@[simp] theorem State.resOkSampled_halted (s : State) : s.resOkSampled.halted = s.halted := rfl
@[simp] theorem State.resOkSampled_gen (s : State) : s.resOkSampled.gen = s.gen := rfl
@[simp] theorem State.resOkSampled_scnt (s : State) : s.resOkSampled.scnt = s.scnt := rfl
@[simp] theorem State.resOkSampled_mem (s : State) : s.resOkSampled.mem = s.mem := rfl
@[simp] theorem State.resOkSampled_tgtHue (s : State) : s.resOkSampled.tgtHue = s.tgtHue := rfl
@[simp] theorem State.resOkSampled_tgtSat (s : State) : s.resOkSampled.tgtSat = s.tgtSat := rfl
@[simp] theorem State.resOkSampled_pidx (s : State) : s.resOkSampled.pidx = s.pidx := rfl
@[simp] theorem State.resOkSampled_fault (s : State) : s.resOkSampled.fault = s.fault := rfl
@[simp] theorem State.resOkSampled_fpc (s : State) : s.resOkSampled.fpc = s.fpc := rfl
@[simp] theorem State.resOkSampled_txst (s : State) : s.resOkSampled.txst = s.txst := rfl
@[simp] theorem State.resOkSampled_events (s : State) : s.resOkSampled.events = s.events := rfl
@[simp] theorem State.resOkSampled_schedule (s : State) : s.resOkSampled.schedule = s.schedule := rfl
@[simp] theorem State.resOkSampled_entropy (s : State) : s.resOkSampled.entropy = s.entropy := rfl
@[simp] theorem State.resOkSampled_resOk (s : State) : s.resOkSampled.resOk = s.resOk.next := rfl
@[simp] theorem State.resOkSampled_txAnswers (s : State) : s.resOkSampled.txAnswers = s.txAnswers := rfl

/-! ### `State.setPix` -/

@[simp] theorem State.setPix_cfg (s : State) (i : Nat) (p : Pixel) : (s.setPix i p).cfg = s.cfg := rfl
@[simp] theorem State.setPix_pc (s : State) (i : Nat) (p : Pixel) : (s.setPix i p).pc = s.pc := rfl
@[simp] theorem State.setPix_regs (s : State) (i : Nat) (p : Pixel) : (s.setPix i p).regs = s.regs := rfl
@[simp] theorem State.setPix_cnt (s : State) (i : Nat) (p : Pixel) : (s.setPix i p).cnt = s.cnt := rfl
@[simp] theorem State.setPix_inited (s : State) (i : Nat) (p : Pixel) : (s.setPix i p).inited = s.inited := rfl
@[simp] theorem State.setPix_seeded (s : State) (i : Nat) (p : Pixel) : (s.setPix i p).seeded = s.seeded := rfl
@[simp] theorem State.setPix_halted (s : State) (i : Nat) (p : Pixel) : (s.setPix i p).halted = s.halted := rfl
@[simp] theorem State.setPix_gen (s : State) (i : Nat) (p : Pixel) : (s.setPix i p).gen = s.gen := rfl
@[simp] theorem State.setPix_scnt (s : State) (i : Nat) (p : Pixel) : (s.setPix i p).scnt = s.scnt := rfl
@[simp] theorem State.setPix_tgtHue (s : State) (i : Nat) (p : Pixel) : (s.setPix i p).tgtHue = s.tgtHue := rfl
@[simp] theorem State.setPix_tgtSat (s : State) (i : Nat) (p : Pixel) : (s.setPix i p).tgtSat = s.tgtSat := rfl
@[simp] theorem State.setPix_pidx (s : State) (i : Nat) (p : Pixel) : (s.setPix i p).pidx = s.pidx := rfl
@[simp] theorem State.setPix_fault (s : State) (i : Nat) (p : Pixel) : (s.setPix i p).fault = s.fault := rfl
@[simp] theorem State.setPix_fpc (s : State) (i : Nat) (p : Pixel) : (s.setPix i p).fpc = s.fpc := rfl
@[simp] theorem State.setPix_txst (s : State) (i : Nat) (p : Pixel) : (s.setPix i p).txst = s.txst := rfl
@[simp] theorem State.setPix_events (s : State) (i : Nat) (p : Pixel) : (s.setPix i p).events = s.events := rfl
@[simp] theorem State.setPix_schedule (s : State) (i : Nat) (p : Pixel) : (s.setPix i p).schedule = s.schedule := rfl
@[simp] theorem State.setPix_entropy (s : State) (i : Nat) (p : Pixel) : (s.setPix i p).entropy = s.entropy := rfl
@[simp] theorem State.setPix_resOk (s : State) (i : Nat) (p : Pixel) : (s.setPix i p).resOk = s.resOk := rfl
@[simp] theorem State.setPix_txAnswers (s : State) (i : Nat) (p : Pixel) : (s.setPix i p).txAnswers = s.txAnswers := rfl

/-! ### `State.setLog` -/

@[simp] theorem State.setLog_cfg (s : State) (i : Nat) (c : Color) : (s.setLog i c).cfg = s.cfg := rfl
@[simp] theorem State.setLog_pc (s : State) (i : Nat) (c : Color) : (s.setLog i c).pc = s.pc := rfl
@[simp] theorem State.setLog_regs (s : State) (i : Nat) (c : Color) : (s.setLog i c).regs = s.regs := rfl
@[simp] theorem State.setLog_cnt (s : State) (i : Nat) (c : Color) : (s.setLog i c).cnt = s.cnt := rfl
@[simp] theorem State.setLog_inited (s : State) (i : Nat) (c : Color) : (s.setLog i c).inited = s.inited := rfl
@[simp] theorem State.setLog_seeded (s : State) (i : Nat) (c : Color) : (s.setLog i c).seeded = s.seeded := rfl
@[simp] theorem State.setLog_halted (s : State) (i : Nat) (c : Color) : (s.setLog i c).halted = s.halted := rfl
@[simp] theorem State.setLog_gen (s : State) (i : Nat) (c : Color) : (s.setLog i c).gen = s.gen := rfl
@[simp] theorem State.setLog_scnt (s : State) (i : Nat) (c : Color) : (s.setLog i c).scnt = s.scnt := rfl
@[simp] theorem State.setLog_tgtHue (s : State) (i : Nat) (c : Color) : (s.setLog i c).tgtHue = s.tgtHue := rfl
@[simp] theorem State.setLog_tgtSat (s : State) (i : Nat) (c : Color) : (s.setLog i c).tgtSat = s.tgtSat := rfl
@[simp] theorem State.setLog_pidx (s : State) (i : Nat) (c : Color) : (s.setLog i c).pidx = s.pidx := rfl
@[simp] theorem State.setLog_fault (s : State) (i : Nat) (c : Color) : (s.setLog i c).fault = s.fault := rfl
@[simp] theorem State.setLog_fpc (s : State) (i : Nat) (c : Color) : (s.setLog i c).fpc = s.fpc := rfl
@[simp] theorem State.setLog_txst (s : State) (i : Nat) (c : Color) : (s.setLog i c).txst = s.txst := rfl
@[simp] theorem State.setLog_events (s : State) (i : Nat) (c : Color) : (s.setLog i c).events = s.events := rfl
@[simp] theorem State.setLog_schedule (s : State) (i : Nat) (c : Color) : (s.setLog i c).schedule = s.schedule := rfl
@[simp] theorem State.setLog_entropy (s : State) (i : Nat) (c : Color) : (s.setLog i c).entropy = s.entropy := rfl
@[simp] theorem State.setLog_resOk (s : State) (i : Nat) (c : Color) : (s.setLog i c).resOk = s.resOk := rfl
@[simp] theorem State.setLog_txAnswers (s : State) (i : Nat) (c : Color) : (s.setLog i c).txAnswers = s.txAnswers := rfl

/-! ### `State.composeFrame` -/

@[simp] theorem State.composeFrame_cfg (s : State) : s.composeFrame.cfg = s.cfg := rfl
@[simp] theorem State.composeFrame_pc (s : State) : s.composeFrame.pc = s.pc := rfl
@[simp] theorem State.composeFrame_regs (s : State) : s.composeFrame.regs = s.regs := rfl
@[simp] theorem State.composeFrame_cnt (s : State) : s.composeFrame.cnt = s.cnt := rfl
@[simp] theorem State.composeFrame_inited (s : State) : s.composeFrame.inited = s.inited := rfl
@[simp] theorem State.composeFrame_seeded (s : State) : s.composeFrame.seeded = s.seeded := rfl
@[simp] theorem State.composeFrame_halted (s : State) : s.composeFrame.halted = s.halted := rfl
@[simp] theorem State.composeFrame_gen (s : State) : s.composeFrame.gen = s.gen := rfl
@[simp] theorem State.composeFrame_scnt (s : State) : s.composeFrame.scnt = s.scnt := rfl
@[simp] theorem State.composeFrame_tgtHue (s : State) : s.composeFrame.tgtHue = s.tgtHue := rfl
@[simp] theorem State.composeFrame_tgtSat (s : State) : s.composeFrame.tgtSat = s.tgtSat := rfl
@[simp] theorem State.composeFrame_pidx (s : State) : s.composeFrame.pidx = s.pidx := rfl
@[simp] theorem State.composeFrame_fault (s : State) : s.composeFrame.fault = s.fault := rfl
@[simp] theorem State.composeFrame_fpc (s : State) : s.composeFrame.fpc = s.fpc := rfl
@[simp] theorem State.composeFrame_txst (s : State) : s.composeFrame.txst = s.txst := rfl
@[simp] theorem State.composeFrame_events (s : State) : s.composeFrame.events = s.events := rfl
@[simp] theorem State.composeFrame_schedule (s : State) : s.composeFrame.schedule = s.schedule := rfl
@[simp] theorem State.composeFrame_entropy (s : State) : s.composeFrame.entropy = s.entropy := rfl
@[simp] theorem State.composeFrame_resOk (s : State) : s.composeFrame.resOk = s.resOk := rfl
@[simp] theorem State.composeFrame_txAnswers (s : State) : s.composeFrame.txAnswers = s.txAnswers := rfl

/-! ### `State.initiate` -/

@[simp] theorem State.initiate_cfg (s : State) : s.initiate.cfg = s.cfg := rfl
@[simp] theorem State.initiate_pc (s : State) : s.initiate.pc = s.pc := rfl
@[simp] theorem State.initiate_regs (s : State) : s.initiate.regs = s.regs.write .x1 s.now := rfl
@[simp] theorem State.initiate_cnt (s : State) : s.initiate.cnt = s.cnt := rfl
@[simp] theorem State.initiate_inited (s : State) : s.initiate.inited = s.inited := rfl
@[simp] theorem State.initiate_seeded (s : State) : s.initiate.seeded = s.seeded := rfl
@[simp] theorem State.initiate_halted (s : State) : s.initiate.halted = s.halted := rfl
@[simp] theorem State.initiate_gen (s : State) : s.initiate.gen = s.gen := rfl
@[simp] theorem State.initiate_scnt (s : State) : s.initiate.scnt = s.scnt := rfl
@[simp] theorem State.initiate_mem (s : State) : s.initiate.mem = s.mem := rfl
@[simp] theorem State.initiate_tgtHue (s : State) : s.initiate.tgtHue = s.tgtHue := rfl
@[simp] theorem State.initiate_tgtSat (s : State) : s.initiate.tgtSat = s.tgtSat := rfl
@[simp] theorem State.initiate_pidx (s : State) : s.initiate.pidx = s.pidx := rfl
@[simp] theorem State.initiate_fault (s : State) : s.initiate.fault = s.fault := rfl
@[simp] theorem State.initiate_fpc (s : State) : s.initiate.fpc = s.fpc := rfl
@[simp] theorem State.initiate_txst (s : State) : s.initiate.txst = .busy := rfl
@[simp] theorem State.initiate_events (s : State) : s.initiate.events = s.events ++ [⟨s.now, s.frameBytes⟩] := rfl
@[simp] theorem State.initiate_schedule (s : State) : s.initiate.schedule = s.schedule := rfl
@[simp] theorem State.initiate_entropy (s : State) : s.initiate.entropy = s.entropy := rfl
@[simp] theorem State.initiate_resOk (s : State) : s.initiate.resOk = s.resOk := rfl
@[simp] theorem State.initiate_txAnswers (s : State) : s.initiate.txAnswers = s.txAnswers := rfl

/-! ### `State.hostReset` -/

@[simp] theorem State.hostReset_cfg (s : State) : s.hostReset.cfg = s.cfg := rfl
@[simp] theorem State.hostReset_pc (s : State) : s.hostReset.pc = 0 := rfl
@[simp] theorem State.hostReset_regs (s : State) : s.hostReset.regs = ⟨0, 0, 0, 0⟩ := rfl
@[simp] theorem State.hostReset_cnt (s : State) : s.hostReset.cnt = 0 := rfl
@[simp] theorem State.hostReset_inited (s : State) : s.hostReset.inited = false := rfl
@[simp] theorem State.hostReset_seeded (s : State) : s.hostReset.seeded = false := rfl
@[simp] theorem State.hostReset_halted (s : State) : s.hostReset.halted = false := rfl
@[simp] theorem State.hostReset_gen (s : State) : s.hostReset.gen = 0 := rfl
@[simp] theorem State.hostReset_scnt (s : State) : s.hostReset.scnt = 0 := rfl
@[simp] theorem State.hostReset_mem (s : State) : s.hostReset.mem = Memory.reset := rfl
@[simp] theorem State.hostReset_tgtHue (s : State) : s.hostReset.tgtHue = 0 := rfl
@[simp] theorem State.hostReset_tgtSat (s : State) : s.hostReset.tgtSat = 0 := rfl
@[simp] theorem State.hostReset_pidx (s : State) : s.hostReset.pidx = 0 := rfl
@[simp] theorem State.hostReset_fault (s : State) : s.hostReset.fault = 0 := rfl
@[simp] theorem State.hostReset_fpc (s : State) : s.hostReset.fpc = 0 := rfl
@[simp] theorem State.hostReset_txst (s : State) : s.hostReset.txst = .idle := rfl
@[simp] theorem State.hostReset_events (s : State) : s.hostReset.events = s.events := rfl
@[simp] theorem State.hostReset_schedule (s : State) : s.hostReset.schedule = s.schedule := rfl
@[simp] theorem State.hostReset_entropy (s : State) : s.hostReset.entropy = s.entropy := rfl
@[simp] theorem State.hostReset_resOk (s : State) : s.hostReset.resOk = s.resOk := rfl
@[simp] theorem State.hostReset_txAnswers (s : State) : s.hostReset.txAnswers = s.txAnswers := rfl

/-! ### Memory updates -/

@[simp] theorem State.setPix_mem_pix (s : State) (i : Nat) (p : Pixel) :
    (s.setPix i p).mem.pix = writeElem resetPixel s.mem.pix i p := rfl
@[simp] theorem State.setPix_mem_log (s : State) (i : Nat) (p : Pixel) :
    (s.setPix i p).mem.log = s.mem.log := rfl
@[simp] theorem State.setPix_mem_out (s : State) (i : Nat) (p : Pixel) :
    (s.setPix i p).mem.out = s.mem.out := rfl
@[simp] theorem State.setPix_mem_seedbuf (s : State) (i : Nat) (p : Pixel) :
    (s.setPix i p).mem.seedbuf = s.mem.seedbuf := rfl
@[simp] theorem State.setLog_mem_pix (s : State) (i : Nat) (c : Color) :
    (s.setLog i c).mem.pix = s.mem.pix := rfl
@[simp] theorem State.setLog_mem_log (s : State) (i : Nat) (c : Color) :
    (s.setLog i c).mem.log = writeElem Color.black s.mem.log i c := rfl
@[simp] theorem State.setLog_mem_out (s : State) (i : Nat) (c : Color) :
    (s.setLog i c).mem.out = s.mem.out := rfl
@[simp] theorem State.setLog_mem_seedbuf (s : State) (i : Nat) (c : Color) :
    (s.setLog i c).mem.seedbuf = s.mem.seedbuf := rfl
@[simp] theorem State.composeFrame_mem_pix (s : State) : s.composeFrame.mem.pix = s.mem.pix := rfl
@[simp] theorem State.composeFrame_mem_log (s : State) : s.composeFrame.mem.log = s.mem.log := rfl
@[simp] theorem State.composeFrame_mem_out (s : State) :
    s.composeFrame.mem.out = tabulateOut (fun i => s.cfg.composeColor (s.log i)) s.cfg.pixels := rfl
@[simp] theorem State.composeFrame_mem_seedbuf (s : State) :
    s.composeFrame.mem.seedbuf = s.mem.seedbuf := rfl

/-! ### The register file -/

/-- A register write is read back, and every other register keeps its value. -/
@[simp] theorem Regs.read_write (s : State) (r q : Reg) (v : Word) :
    (s.setX r v).x q = if q = r then v else s.x q := by
  cases r <;> cases q <;> rfl

@[simp] theorem State.raise_x (s : State) (e : Exc) (r : Reg) : (s.raise e).x r = s.x r := rfl
@[simp] theorem State.advance_x (s : State) (r : Reg) : s.advance.x r = s.x r := rfl
@[simp] theorem State.setPix_x (s : State) (i : Nat) (p : Pixel) (r : Reg) :
    (s.setPix i p).x r = s.x r := rfl
@[simp] theorem State.setLog_x (s : State) (i : Nat) (c : Color) (r : Reg) :
    (s.setLog i c).x r = s.x r := rfl
@[simp] theorem State.turnTaken_x (s : State) (r : Reg) : s.turnTaken.x r = s.x r := rfl
@[simp] theorem State.entropyCalled_x (s : State) (r : Reg) : s.entropyCalled.x r = s.x r := rfl
@[simp] theorem State.resOkSampled_x (s : State) (r : Reg) : s.resOkSampled.x r = s.x r := rfl
@[simp] theorem State.composeFrame_x (s : State) (r : Reg) : s.composeFrame.x r = s.x r := rfl

end Sys2Proof.Machine
end

