-- ==== Sys2Proof/Laws/Memory.lean ====
section
/-! SUPPORT. The laws of the element-indexed spaces: read after write, and every memory operation keeps
the canonical form (20_memory R60, R65; log entry 7). -/

namespace Sys2Proof.Machine

section Spaces
variable {α : Type} [DecidableEq α] (d : α)

/-- A canonical space that starts at `lo` lists nothing below `lo`. -/
theorem readElem_below {size lo i : Nat} {m : Space α} (h : canonFrom d size lo m = true)
    (hi : i < lo) : readElem d m i = d := by
  induction m generalizing lo with
  | nil => rfl
  | cons e m ih =>
    obtain ⟨j, v⟩ := e
    simp only [canonFrom, Bool.and_eq_true, decide_eq_true_eq] at h
    have hne : i ≠ j := by omega
    simp only [readElem, if_neg hne]
    exact ih h.2 (by omega)

/-- A canonical space from `lo` on is one from any lower start. -/
theorem canonFrom_mono {size lo lo' : Nat} {m : Space α} (h : canonFrom d size lo m = true)
    (hl : lo' ≤ lo) : canonFrom d size lo' m = true := by
  cases m with
  | nil => rfl
  | cons e m =>
    obtain ⟨j, v⟩ := e
    simp only [canonFrom, Bool.and_eq_true, decide_eq_true_eq] at h ⊢
    exact ⟨⟨⟨by omega, h.1.1.2⟩, h.1.2⟩, h.2⟩

/-- Reading after a write: the written element reads the value written, every other one as before. -/
theorem readElem_writeElem {size lo : Nat} {m : Space α} (h : canonFrom d size lo m = true)
    (i j : Nat) (v : α) :
    readElem d (writeElem d m i v) j = if j = i then v else readElem d m j := by
  induction m generalizing lo with
  | nil =>
    by_cases hv : v = d
    · simp [writeElem, hv, readElem]
    · simp [writeElem, hv, readElem]
  | cons e m ih =>
    obtain ⟨k, w⟩ := e
    simp only [canonFrom, Bool.and_eq_true, decide_eq_true_eq] at h
    obtain ⟨⟨⟨_, _⟩, _⟩, hm⟩ := h
    simp only [writeElem]
    by_cases hik : i < k
    · simp only [if_pos hik]
      by_cases hv : v = d
      · by_cases hji : j = i
        · subst hji
          have hjk : j ≠ k := by omega
          simp [hv, readElem, hjk, readElem_below d hm (by omega : j < k + 1)]
        · simp [hv, hji]
      · by_cases hji : j = i <;> simp [hv, hji, readElem]
    · simp only [if_neg hik]
      by_cases hk : i = k
      · subst hk
        by_cases hv : v = d
        · by_cases hji : j = i
          · subst hji
            simp [hv, readElem_below d hm (by omega : j < j + 1)]
          · simp [hv, hji, readElem]
        · by_cases hji : j = i <;> simp [hv, hji, readElem]
      · simp only [if_neg hk, readElem]
        by_cases hjk : j = k
        · have hji : j ≠ i := by omega
          subst hjk
          simp [hji]
        · simp [hjk, ih hm]

/-- A write keeps the canonical form. -/
theorem canonFrom_writeElem {size lo : Nat} {m : Space α} (h : canonFrom d size lo m = true)
    {i : Nat} (hi : i < size) (hl : lo ≤ i) (v : α) :
    canonFrom d size lo (writeElem d m i v) = true := by
  induction m generalizing lo with
  | nil =>
    by_cases hv : v = d
    · simp [writeElem, hv, canonFrom]
    · simp [writeElem, hv, canonFrom, hi, hl]
  | cons e m ih =>
    obtain ⟨k, w⟩ := e
    have h' := h
    simp only [canonFrom, Bool.and_eq_true, decide_eq_true_eq] at h'
    obtain ⟨⟨⟨hlo, hks⟩, hw⟩, hm⟩ := h'
    simp only [writeElem]
    by_cases hik : i < k
    · by_cases hv : v = d
      · simp [hik, hv, h]
      · simp [hik, hv, canonFrom, hl, hi, hw, hm, hks, Nat.succ_le_of_lt hik]
    · by_cases hk : i = k
      · subst hk
        by_cases hv : v = d
        · simp [hv, canonFrom_mono d hm (by omega : lo ≤ i + 1)]
        · simp [hv, canonFrom, hlo, hks, hm]
      · have := ih hm (by omega : k + 1 ≤ i)
        simp [hik, hk, canonFrom, hlo, hks, hw, this]

/-- An appended entry past the end keeps the canonical form. -/
theorem canonFrom_append {size lo n : Nat} {m : Space α} (h : canonFrom d n lo m = true)
    (hn : n < size) (hl : lo ≤ n) {v : α} (hv : v ≠ d) :
    canonFrom d size lo (m ++ [(n, v)]) = true := by
  induction m generalizing lo with
  | nil => simp [canonFrom, hl, hn, hv]
  | cons e m ih =>
    obtain ⟨k, w⟩ := e
    simp only [canonFrom, Bool.and_eq_true, decide_eq_true_eq] at h
    obtain ⟨⟨⟨hlo, hks⟩, hw⟩, hm⟩ := h
    have := ih hm (by omega)
    simp only [List.cons_append, canonFrom, Bool.and_eq_true, decide_eq_true_eq]
    exact ⟨⟨⟨hlo, by omega⟩, hw⟩, this⟩

/-- A canonical space of a size is one of any greater size. -/
theorem canonFrom_size_mono {size size' lo : Nat} {m : Space α} (h : canonFrom d size lo m = true)
    (hs : size ≤ size') : canonFrom d size' lo m = true := by
  induction m generalizing lo with
  | nil => rfl
  | cons e m ih =>
    obtain ⟨k, w⟩ := e
    simp only [canonFrom, Bool.and_eq_true, decide_eq_true_eq] at h ⊢
    exact ⟨⟨⟨h.1.1.1, by omega⟩, h.1.2⟩, ih h.2⟩

/-- A canonical space of a size lists nothing at or past it. -/
theorem readElem_above {size lo i : Nat} {m : Space α} (h : canonFrom d size lo m = true)
    (hi : size ≤ i) : readElem d m i = d := by
  induction m generalizing lo with
  | nil => rfl
  | cons e m ih =>
    obtain ⟨j, v⟩ := e
    simp only [canonFrom, Bool.and_eq_true, decide_eq_true_eq] at h
    have hne : i ≠ j := by omega
    simp only [readElem, if_neg hne]
    exact ih h.2

/-- Reading a space with an entry appended past its end. -/
theorem readElem_append {lo n : Nat} {m : Space α} (h : canonFrom d n lo m = true) (i : Nat) (v : α) :
    readElem d (m ++ [(n, v)]) i = if i = n then v else readElem d m i := by
  induction m generalizing lo with
  | nil => simp [readElem]
  | cons e m ih =>
    obtain ⟨k, w⟩ := e
    simp only [canonFrom, Bool.and_eq_true, decide_eq_true_eq] at h
    obtain ⟨⟨⟨_, hk⟩, _⟩, hm⟩ := h
    simp only [List.cons_append, readElem, ih hm]
    by_cases hik : i = k
    · have : i ≠ n := by omega
      simp [hik, ne_of_lt hk]
    · simp [hik]

end Spaces

/-- The tabulated `OUT` is canonical. -/
theorem canonFrom_tabulateOut (f : Nat → WireColor) (n : Nat) :
    canonFrom resetWire n 0 (tabulateOut f n) = true := by
  induction n with
  | zero => rfl
  | succ n ih =>
    simp only [tabulateOut]
    by_cases hf : f n = resetWire
    · simpa [hf] using canonFrom_size_mono resetWire ih (Nat.le_succ n)
    · simpa [hf] using canonFrom_append resetWire ih (Nat.lt_succ_self n) (Nat.zero_le n) hf

/-- The tabulated `OUT` reads back the function, below its size. -/
theorem readElem_tabulateOut (f : Nat → WireColor) (n i : Nat) :
    readElem resetWire (tabulateOut f n) i = if i < n then f i else resetWire := by
  induction n with
  | zero => simp [tabulateOut, readElem]
  | succ n ih =>
    simp only [tabulateOut]
    by_cases hf : f n = resetWire
    · by_cases hi : i = n
      · subst hi
        simp only [hf, if_true, ih]
        simp
      · simp only [hf, if_true, ih]
        by_cases h : i < n
        · simp [h, Nat.lt_succ_of_lt h]
        · simp [h, show ¬ i < n + 1 by omega]
    · simp only [hf, if_false, readElem_append resetWire (canonFrom_tabulateOut f n), ih]
      by_cases hi : i = n
      · simp [hi]
      · by_cases h : i < n
        · simp [hi, h, Nat.lt_succ_of_lt h]
        · simp [hi, h, show ¬ i < n + 1 by omega]

/-- The four parts of the canonical form of the RAM spaces. -/
theorem Memory.wf_iff (n : Nat) (m : Memory) :
    m.wf n = true ↔ canonFrom resetPixel n 0 m.pix = true ∧ canonFrom Color.black n 0 m.log = true ∧
      canonFrom resetWire n 0 m.out = true ∧ canonFrom 0 32 0 m.seedbuf = true := by
  simp only [Memory.wf, Bool.and_eq_true, and_assoc]

/-- The memory after reset is canonical. -/
theorem Memory.wf_reset (n : Nat) : Memory.reset.wf n = true := rfl

/-- Storing a pixel keeps the canonical form. -/
theorem State.setPix_wf {s : State} {n i : Nat} (h : s.mem.wf n = true) (hi : i < n) (p : Pixel) :
    (s.setPix i p).mem.wf n = true := by
  rw [Memory.wf_iff] at h ⊢
  exact ⟨canonFrom_writeElem resetPixel h.1 hi (Nat.zero_le i) p, h.2⟩

/-- Storing a logical colour keeps the canonical form. -/
theorem State.setLog_wf {s : State} {n i : Nat} (h : s.mem.wf n = true) (hi : i < n) (c : Color) :
    (s.setLog i c).mem.wf n = true := by
  rw [Memory.wf_iff] at h ⊢
  exact ⟨h.1, canonFrom_writeElem Color.black h.2.1 hi (Nat.zero_le i) c, h.2.2⟩

/-- Composing a frame keeps the canonical form. -/
theorem State.composeFrame_wf {s : State} (h : s.mem.wf s.cfg.pixels = true) :
    s.composeFrame.mem.wf s.cfg.pixels = true := by
  rw [Memory.wf_iff] at h ⊢
  exact ⟨h.1, h.2.1, canonFrom_tabulateOut _ _, h.2.2.2⟩

/-- Storing a seed sample keeps the canonical form. -/
theorem canonFrom_writeSample {m : List Host.Cell} (h : canonFrom 0 32 0 m = true) {b : Nat}
    (hb : b + 3 < 32) (w : Word) : canonFrom 0 32 0 (writeSample m b w) = true := by
  have h1 := canonFrom_writeElem 0 h (i := b) (by omega) (Nat.zero_le _) (w.extractLsb' 0 8)
  have h2 := canonFrom_writeElem 0 h1 (i := b + 1) (by omega) (Nat.zero_le _) (w.extractLsb' 8 8)
  have h3 := canonFrom_writeElem 0 h2 (i := b + 2) (by omega) (Nat.zero_le _) (w.extractLsb' 16 8)
  exact canonFrom_writeElem 0 h3 (i := b + 3) hb (Nat.zero_le _) (w.extractLsb' 24 8)

/-- The bytes read after a seed sample is stored: byte `k` of the sample at `b + k`, every other byte as
before (R62 (a)). -/
theorem readElem_writeSample {m : List Host.Cell} (h : canonFrom 0 32 0 m = true) {b : Nat}
    (hb : b + 3 < 32) (w : Word) (j : Nat) :
    readElem 0 (writeSample m b w) j =
      if b ≤ j ∧ j < b + 4 then w.extractLsb' (8 * (j - b)) 8 else readElem 0 m j := by
  have h1 := canonFrom_writeElem 0 h (i := b) (by omega) (Nat.zero_le _) (w.extractLsb' 0 8)
  have h2 := canonFrom_writeElem 0 h1 (i := b + 1) (by omega) (Nat.zero_le _) (w.extractLsb' 8 8)
  have h3 := canonFrom_writeElem 0 h2 (i := b + 2) (by omega) (Nat.zero_le _) (w.extractLsb' 16 8)
  simp only [writeSample, readElem_writeElem 0 h3, readElem_writeElem 0 h2, readElem_writeElem 0 h1,
    readElem_writeElem 0 h]
  by_cases h0 : j = b
  · subst h0; simp
  · by_cases h1 : j = b + 1
    · subst h1; simp
    · by_cases h2 : j = b + 2
      · subst h2; simp
      · by_cases h3 : j = b + 3
        · subst h3; simp
        · simp [h0, h1, h2, h3, show ¬ (b ≤ j ∧ j < b + 4) by omega]

/-- `PROG` after one word is placed, and every other word (R60). -/
theorem progWord_withProgWord {c : Cfg} (h : canonFrom 0 256 0 c.prog = true) (i k : Nat) (w : OpWord) :
    (c.withProgWord i w).progWord k = if k = i then w else c.progWord k :=
  readElem_writeElem 0 h i k w

end Sys2Proof.Machine
end

