-- ==== Sys2Proof/Laws/Ops.lean ====
section
/-! SUPPORT. For each shared operation, once, everything it can do; and what one step of the machine can
do. The proofs cite these lemmas instead of unfolding the operations. -/

namespace Sys2Proof.Machine

/-- A seeded draw: the generator's next word, and the state it left (R146). -/
theorem State.draw32_seeded {s : State} (h : s.seeded = true) :
    s.draw32 =
      .ok ((s.cfg.prngNextU32 s.gen).1, { s with gen := (s.cfg.prngNextU32 s.gen).2 }) := by
  simp [State.draw32, h]

/-- An unseeded draw faults (R146). -/
theorem State.draw32_unseeded {s : State} (h : s.seeded = false) :
    s.draw32 = .error .rngNotSeeded := by
  simp [State.draw32, h]

/-- A draw that answers: the source was seeded, and only `GEN` moved. -/
theorem State.draw32_ok {s t : State} {d : Word} (h : s.draw32 = .ok (d, t)) :
    s.seeded = true ∧ d = (s.cfg.prngNextU32 s.gen).1 ∧
      t = { s with gen := (s.cfg.prngNextU32 s.gen).2 } := by
  by_cases hs : s.seeded = true
  · rw [State.draw32_seeded hs] at h
    simp only [Except.ok.injEq, Prod.mk.injEq] at h
    exact ⟨hs, h.1.symm, h.2.symm⟩
  · rw [State.draw32_unseeded (by simpa using hs)] at h
    cases h

/-- A draw that faults raises `RngNotSeeded`. -/
theorem State.draw32_error {s : State} {e : Exc} (h : s.draw32 = .error e) :
    s.seeded = false ∧ e = .rngNotSeeded := by
  cases hs : s.seeded with
  | true =>
    rw [State.draw32_seeded hs] at h
    cases h
  | false =>
    rw [State.draw32_unseeded hs] at h
    simp only [Except.error.injEq] at h
    exact ⟨rfl, h.symm⟩

/-- A 64-bit draw that answers. -/
theorem State.draw64_ok {s t : State} {q : BitVec 64} (h : s.draw64 = .ok (q, t)) :
    s.seeded = true ∧ q = (s.cfg.prngNextU64 s.gen).1 ∧
      t = { s with gen := (s.cfg.prngNextU64 s.gen).2 } := by
  by_cases hs : s.seeded = true
  · rw [State.draw64, if_pos hs] at h
    simp only [Except.ok.injEq, Prod.mk.injEq] at h
    exact ⟨hs, h.1.symm, h.2.symm⟩
  · rw [State.draw64, if_neg hs] at h
    cases h

/-- A seeded new target: two draws in order, hue from the first, saturation index from the second, and
the recorded time (R203). -/
theorem State.newTarget_seeded {s : State} (h : s.seeded = true) (w : Word) :
    s.newTarget w = .ok { s.setX .x0 w with
      gen := (s.cfg.prngNextU32 (s.cfg.prngNextU32 s.gen).2).2
      tgtHue := (s.cfg.prngNextU32 s.gen).1.extractLsb' 0 8
      tgtSat := s.cfg.satlut.at
        ((s.cfg.prngNextU32 (s.cfg.prngNextU32 s.gen).2).1.extractLsb' 0 8) } := by
  rw [State.newTarget, State.draw32_seeded h]
  simp only
  rw [State.draw32_seeded (by exact h)]
  rfl

/-- A new target that is drawn was drawn from a seeded source. -/
theorem State.newTarget_ok {s t : State} {w : Word} (h : s.newTarget w = .ok t) :
    s.seeded = true := by
  cases hs : s.seeded with
  | false => simp [State.newTarget, State.draw32, hs] at h
  | true => rfl

/-- A new target that cannot be drawn raises `RngNotSeeded`. -/
theorem State.newTarget_error {s : State} {w : Word} {e : Exc} (h : s.newTarget w = .error e) :
    s.seeded = false ∧ e = .rngNotSeeded := by
  cases hs : s.seeded with
  | false =>
    simp only [State.newTarget, State.draw32, hs] at h
    simp at h
    exact ⟨rfl, h.symm⟩
  | true => simp [State.newTarget, State.draw32, hs] at h

/-- One step of a pixel that answers takes one of the three transitions (R161 to R164). -/
theorem State.stepPixel_ok {s t : State} {i : Nat} (h : s.stepPixel i = .ok t) :
    ((s.pix i).rate = 0 ∧ s.seeded = true ∧
      t = (({ s with gen := (s.cfg.prngNextU32 s.gen).2 } : State).setPix i
        ⟨s.tgtHue, s.tgtSat, 0, rateOf (s.cfg.prngNextU32 s.gen).1⟩).setLog i Color.black) ∨
    ((s.pix i).rate ≠ 0 ∧ (s.pix i).phaseCarry = true ∧ t = s.fadingToIdle i (s.pix i)) ∨
    ((s.pix i).rate ≠ 0 ∧ (s.pix i).phaseCarry = false ∧ t = s.fadingToFading i (s.pix i)) := by
  simp only [State.stepPixel, Pixel.isIdle, beq_iff_eq] at h
  split at h
  · rename_i hr
    left
    simp only [State.idleToFading] at h
    split at h
    · cases h
    · rename_i d u hd
      obtain ⟨hs, rfl, rfl⟩ := State.draw32_ok hd
      simp only [Except.ok.injEq] at h
      exact ⟨hr, hs, h.symm⟩
  · rename_i hr
    right
    split at h
    · rename_i hc
      simp only [Except.ok.injEq] at h
      exact .inl ⟨hr, hc, h.symm⟩
    · rename_i hc
      simp only [Except.ok.injEq] at h
      exact .inr ⟨hr, by simpa using hc, h.symm⟩

/-- A pixel step faults only on an IDLE pixel with no seed (R161). -/
theorem State.stepPixel_error {s : State} {i : Nat} {e : Exc} (h : s.stepPixel i = .error e) :
    (s.pix i).rate = 0 ∧ s.seeded = false ∧ e = .rngNotSeeded := by
  simp only [State.stepPixel, Pixel.isIdle, beq_iff_eq] at h
  split at h
  · rename_i hr
    simp only [State.idleToFading] at h
    split at h
    · rename_i e' hd
      obtain ⟨hs, rfl⟩ := State.draw32_error hd
      simp only [Except.error.injEq] at h
      exact ⟨hr, hs, h.symm⟩
    · cases h
  · split at h <;> cases h

/-- The carry of the phase adder is the overflow of the sum (R161: `s[16] = 1` exactly when
`phase + rate ≥ 65536`). -/
theorem Pixel.phaseCarry_iff (p : Pixel) :
    p.phaseCarry = true ↔ 65536 ≤ p.phase.toNat + p.rate.toNat := by
  have h1 := p.phase.isLt
  have h2 := p.rate.isLt
  simp only [Pixel.phaseCarry, Pixel.phaseSum, BitVec.getLsbD, BitVec.toNat_add,
    BitVec.toNat_setWidth, BitVec.truncate_eq_setWidth]
  rw [Nat.mod_eq_of_lt (by omega : p.phase.toNat < 2 ^ 17),
    Nat.mod_eq_of_lt (by omega : p.rate.toNat < 2 ^ 17), Nat.mod_eq_of_lt (by omega)]
  rw [Nat.testBit_eq_decide_div_mod_eq, decide_eq_true_eq]
  omega

/-- The low 16 bits of the phase sum are the wrapped sum (R163). -/
theorem Pixel.phaseSum_low (p : Pixel) :
    p.phaseSum.extractLsb' 0 16 = p.phase + p.rate := by
  have h1 := p.phase.isLt
  have h2 := p.rate.isLt
  apply BitVec.eq_of_toNat_eq
  simp only [Pixel.phaseSum, BitVec.extractLsb'_toNat, BitVec.toNat_add, BitVec.toNat_setWidth,
    BitVec.truncate_eq_setWidth, Nat.shiftRight_zero]
  omega

/-- A settled step is the operation's own, or its fault taken from the state before it (R234). -/
theorem State.settle_cases (s : State) (r : Except Exc State) :
    (∃ t, r = .ok t ∧ s.settle r = t) ∨ (∃ e, r = .error e ∧ s.settle r = s.raise e) := by
  cases r with
  | ok t => exact .inl ⟨t, rfl, rfl⟩
  | error e => exact .inr ⟨e, rfl, rfl⟩

/-- A TICK turn (R121). -/
theorem State.tick_cases (s : State) :
    (s.inited = true ∧ s.tick = { s with cnt := s.cnt + 1 }) ∨
      (s.inited = false ∧ s.tick = s) := by
  cases h : s.inited <;> simp [State.tick, h]

/-- A TX turn (R188). -/
theorem State.txStep_cases (s : State) :
    (s.txst = .busy ∧ s.txStep =
      { s with
        txst := (match s.txAnswer with | .ok => .doneOk | .fail => .doneFail)
        txAnswers := s.txAnswers.next }) ∨
      (s.txst ≠ .busy ∧ s.txStep = s) := by
  cases h : s.txst with
  | busy => exact .inl ⟨rfl, by cases ha : s.txAnswer <;> simp [State.txStep, h, ha]⟩
  | _ => exact .inr ⟨by simp, by unfold State.txStep; rw [h]⟩

/-- What a SEQ turn that answers can be: a passed turn of a halted sequencer, an illegal word, or the
decoded operation (R200). -/
theorem seqTurn_cases {s t : State} (h : seqTurn s = .next t) :
    (s.halted = true ∧ t = s) ∨
    (s.halted = false ∧ (∃ e, decode s.fetch = .error e) ∧ t = s.raise .illegalOperation) ∨
    (s.halted = false ∧ ∃ i, decode s.fetch = .ok i ∧ exec i s = .next t) := by
  simp only [seqTurn] at h
  split at h
  · rename_i hh
    simp only [Host.Outcome.next.injEq] at h
    exact .inl ⟨hh, h.symm⟩
  · rename_i hh
    have hh' : s.halted = false := by simpa using hh
    split at h
    · rename_i e he
      simp only [Host.Outcome.next.injEq] at h
      exact .inr (.inl ⟨hh', ⟨e, he⟩, h.symm⟩)
    · rename_i i hi
      exact .inr (.inr ⟨hh', i, hi, h⟩)

/-- What a step that answers can be: one turn of one agent, in an accepted configuration (R20, R7). -/
theorem step_cases {s t : State} (h : step s = .next t) :
    s.cfg.accepted = true ∧
      ((s.turn = .seq ∧ seqTurn s.turnTaken = .next t) ∨
       (s.turn = .tick ∧ t = s.turnTaken.tick) ∨
       (s.turn = .tx ∧ t = s.turnTaken.txStep) ∨
       (s.turn = .hostReset ∧ t = s.turnTaken.hostReset)) := by
  simp only [step] at h
  split at h
  · rename_i hc
    refine ⟨hc, ?_⟩
    split at h
    · rename_i ht
      exact .inl ⟨ht, h⟩
    · rename_i ht
      simp only [Host.Outcome.next.injEq] at h
      exact .inr (.inl ⟨ht, h.symm⟩)
    · rename_i ht
      simp only [Host.Outcome.next.injEq] at h
      exact .inr (.inr (.inl ⟨ht, h.symm⟩))
    · rename_i ht
      simp only [Host.Outcome.next.injEq] at h
      exact .inr (.inr (.inr ⟨ht, h.symm⟩))
  · cases h

/-- What an accepted configuration meets (R7). -/
theorem Cfg.accepted_iff (c : Cfg) :
    c.accepted = true ↔ 1 ≤ c.pixels ∧ c.pixels ≤ 256 ∧ 1 ≤ c.tickHz ∧
      1 ≤ c.samplesPerHalf ∧ c.samplesPerHalf ≤ 4 ∧ c.perm.isPermutation = true := by
  simp only [Cfg.accepted, Bool.and_eq_true, decide_eq_true_eq, and_assoc]

/-- A sample count within its bound names bytes of `SEEDBUF` (R142, R64). -/
theorem sampleBase_lt {s : State} (h1 : 1 ≤ s.cfg.samplesPerHalf) (h4 : s.cfg.samplesPerHalf ≤ 4)
    (h : s.scnt.toNat < 2 * s.cfg.samplesPerHalf) : s.sampleBase + 3 < 32 := by
  simp only [State.sampleBase]
  have hq : s.scnt.toNat / s.cfg.samplesPerHalf < 2 :=
    (Nat.div_lt_iff_lt_mul (by omega)).2 (by omega)
  have hm := Nat.mod_lt s.scnt.toNat (by omega : s.cfg.samplesPerHalf > 0)
  omega

/-- A sample base inside `SEEDBUF` comes from a sample count within its bound. -/
theorem scnt_lt_of_sampleBase {s : State} (h1 : 1 ≤ s.cfg.samplesPerHalf)
    (h : s.sampleBase + 3 < 32) : s.scnt.toNat < 2 * s.cfg.samplesPerHalf := by
  simp only [State.sampleBase] at h
  have hq : s.scnt.toNat / s.cfg.samplesPerHalf < 2 := by omega
  have := (Nat.div_lt_iff_lt_mul (by omega : 0 < s.cfg.samplesPerHalf)).1 hq
  omega

end Sys2Proof.Machine
end

