-- ==== Sys2Proof/Laws/Exec.lean ====
section
/-! SUPPORT. Once, over all operations, what a state can be that an operation answers. A statement over
every operation is a case analysis of `Answered`. -/

namespace Sys2Proof

/-- The operations that write registers and, if they draw, the generator, and nothing else but `pc`. -/
def Instr.writesRegistersOnly : Instr → Bool
  | .clkNow _ => true
  | .clkElapsed _ _ => true
  | .clkMicros _ _ => true
  | .clkMillis _ _ => true
  | .rngU32 _ => true
  | .rngU64 _ => true
  | _ => false

end Sys2Proof

namespace Sys2Proof.Machine

/-- Writing one register keeps every other one (R21). -/
theorem Regs.read_write_other (s : State) {rd r : Reg} (v : Word) (h : r ≠ rd) :
    ({ s with regs := s.regs.write rd v } : State).x r = s.x r := by
  have := Regs.read_write s rd r v
  rwa [if_neg h] at this

/-- The rate draw in exact numbers (R167). -/
theorem rateOf_toNat (d : Word) : (rateOf d).toNat = max 128 (d.toNat % 1024) := by
  simp only [rateOf, Config.rateMin, Config.rateMask]
  rw [show (0x3FF : Nat) = 2 ^ 10 - 1 from rfl, Nat.and_two_pow_sub_one_eq_mod]
  simp
  omega

/-- What one step of a pixel writes: that pixel, its logical colour and the generator (R160); a legal
rate stays legal (R36 (a)). -/
theorem State.stepPixel_writes {s t : State} {i : Nat} (h : s.stepPixel i = .ok t) :
    ∃ (p : Pixel) (c : Color) (g : Gen),
      t = { s with
        gen := g
        mem := { s.mem with
          pix := writeElem resetPixel s.mem.pix i p
          log := writeElem Color.black s.mem.log i c } } ∧
      ((s.pix i).rateLegal → p.rateLegal) := by
  rcases State.stepPixel_ok h with ⟨_, _, rfl⟩ | ⟨_, _, rfl⟩ | ⟨_, _, rfl⟩
  · refine ⟨_, _, _, rfl, fun _ => .inr ?_⟩
    show 128 ≤ (rateOf _).toNat ∧ (rateOf _).toNat ≤ 1023
    rw [rateOf_toNat]
    omega
  · exact ⟨_, _, _, rfl, fun _ => .inl rfl⟩
  · exact ⟨_, _, _, rfl, fun h => h⟩

/-- What `exec i s` can answer. -/
inductive Answered (i : Instr) (s t : State) : Prop
  /-- A fault, taken from the state before; only answers from outside may have been taken. -/
  | raised (e : Exc) (en : Oracle EntropyAnswer) (ro : Oracle Bool)
      (entropy : i ≠ .rngSeed → en = s.entropy) (resOk : i ≠ .clkInit → ro = s.resOk)
      (illegal : e = .illegalOperation → ∃ rd, i = .rngU64 rd)
      (answer : t = ({ s with entropy := en, resOk := ro } : State).raise e)
  /-- `SEQ.JMP`. -/
  | jumped (imm : Byte) (op : i = .seqJmp imm) (answer : t = { s with pc := imm })
  /-- `SEQ.HALT`. -/
  | halted (op : i = .seqHalt) (answer : t = { s with halted := true })
  /-- `CLK.INIT` starts the clock. -/
  | started (op : i = .clkInit) (before : s.inited = false)
      (answer : t = { s with resOk := s.resOk.next, cnt := 0, inited := true, pc := s.pc + 1 })
  /-- A register operation: its destinations, and the generator if it draws. -/
  | wrote (f : Regs) (g : Gen) (drew : g = s.gen ∨ i.mayDraw = true)
      (kept : ∀ r, r ∉ i.destinations → ({ s with regs := f } : State).x r = s.x r)
      (op : i.writesRegistersOnly = true)
      (answer : t = { s with regs := f, gen := g, pc := s.pc + 1 })
  /-- `RNG.SEED` is told to retry. -/
  | retried (op : i = .rngSeed) (before : s.seeded = false) (answer : t = s.entropyCalled)
  /-- `RNG.SEED` stores a sample. -/
  | sampled (w : Word) (op : i = .rngSeed) (before : s.seeded = false)
      (room : s.sampleBase + 3 < 32) (answer : t = s.entropyCalled.acceptSample w)
  /-- `PIX.STEP` steps its pixel. -/
  | stepped (imm : Byte) (op : i = .pixStep imm) (range : imm.toNat < s.cfg.pixels) (u : State)
      (pixel : s.stepPixel imm.toNat = .ok u) (answer : t = u.advance)
  /-- `FRM.COMPOSE`. -/
  | composed (op : i = .frmCompose) (answer : t = s.composeFrame.advance)
  /-- `FRM.XMIT` initiates. -/
  | initiated (op : i = .frmXmit) (before : s.txst = .idle) (answer : t = s.initiate)
  /-- `FRM.XMIT` is held. -/
  | held (op : i = .frmXmit) (before : s.txst = .busy) (answer : t = s)
  /-- `FRM.XMIT` completes. -/
  | sent (op : i = .frmXmit) (before : s.txst = .doneOk)
      (answer : t = { s with txst := .idle, pc := s.pc + 1 })
  /-- `SCH.RETARGET`, or a due `SCH.REFRESH`. -/
  | targeted (hue sat : Byte) (g : Gen) (op : i = .schRetarget ∨ i = .schRefresh)
      (answer : t = { s.setX .x0 s.now with
        gen := g, tgtHue := hue, tgtSat := sat, pc := s.pc + 1 })
  /-- `SCH.REFRESH` not due, or a passing poll of `SCH.WAIT`. -/
  | passed (op : i = .schRefresh ∨
        (i = .schWait ∧ s.cfg.frameMinTicks.toNat ≤ (s.elapsed (s.x .x1)).toNat))
      (answer : t = s.advance)
  /-- A failing poll of `SCH.WAIT`. -/
  | polled (op : i = .schWait) (answer : t = s)
  /-- `SCH.STEPALL` steps the pixel at `PIDX`. -/
  | steppedNext (op : i = .schStepall) (range : s.pidx.toNat < s.cfg.pixels) (u : State)
      (pixel : s.stepPixel s.pidx.toNat = .ok u)
      (answer : t = if s.pidx.toNat + 1 = s.cfg.pixels then State.advance { u with pidx := 0 }
        else { u with pidx := s.pidx + 1 })

/-- A fault in the form `Answered` gives it, where no answer from outside was taken. -/
theorem Answered.ofRaise {i : Instr} {s t : State} (e : Exc)
    (illegal : e = .illegalOperation → ∃ rd, i = .rngU64 rd) (h : s.raise e = t) :
    Answered i s t :=
  .raised e s.entropy s.resOk (fun _ => rfl) (fun _ => rfl) illegal h.symm

/-- A one-destination register operation in the form `Answered` gives it. -/
theorem Answered.ofWrite {i : Instr} {s t : State} (rd : Reg) (v : Word) (g : Gen)
    (dest : i.destinations = [rd]) (drew : g = s.gen ∨ i.mayDraw = true)
    (op : i.writesRegistersOnly = true)
    (h : { s with regs := s.regs.write rd v, gen := g, pc := s.pc + 1 } = t) : Answered i s t :=
  .wrote _ g drew (fun r hr => Regs.read_write_other s v (by simpa [dest] using hr)) op h.symm

/-- `FRM.XMIT` answers one of the forms of `Answered` (R187). -/
theorem answered_frmXmit {s t : State} (h : exec .frmXmit s = .next t) :
    Answered .frmXmit s t := by
  simp only [exec, execFrmXmit, Host.Outcome.next.injEq] at h
  split at h
  · exact .initiated rfl ‹_› h.symm
  · exact .held rfl ‹_› h.symm
  · exact .sent rfl ‹_› h.symm
  · exact .ofRaise _ (by simp) h

/-- `RNG.SEED` answers one of the forms of `Answered` (R143). -/
theorem answered_rngSeed {s t : State} (h : exec .rngSeed s = .next t) :
    Answered .rngSeed s t := by
  simp only [exec, execRngSeed] at h
  split at h
  · simp only [Host.Outcome.next.injEq] at h
    exact .ofRaise _ (by simp) h
  · rename_i hs
    have hs : s.seeded = false := by simpa using hs
    split at h
    · rename_i hb
      simp only [Host.Outcome.next.injEq] at h
      split at h
      · exact .raised _ s.entropy.next s.resOk (by simp) (by simp) (by simp) h.symm
      · exact .retried rfl hs h.symm
      · exact .sampled _ rfl hs hb h.symm
    · cases h

/-- `RNG.U32` answers one of the forms of `Answered` (R147). -/
theorem answered_rngU32 {rd : Reg} {s t : State} (h : exec (.rngU32 rd) s = .next t) :
    Answered (.rngU32 rd) s t := by
  simp only [exec, execRngU32, Host.Outcome.next.injEq] at h
  cases hd : s.draw32 with
  | error e =>
    obtain ⟨_, rfl⟩ := State.draw32_error hd
    rw [hd] at h
    exact .ofRaise _ (by simp) h
  | ok v =>
    obtain ⟨d, u⟩ := v
    rw [hd] at h
    obtain ⟨_, rfl, rfl⟩ := State.draw32_ok hd
    exact .ofWrite rd _ _ rfl (.inr rfl) rfl h

/-- `RNG.U64` answers one of the forms of `Answered` (R148). -/
theorem answered_rngU64 {rd : Reg} {s t : State} (h : exec (.rngU64 rd) s = .next t) :
    Answered (.rngU64 rd) s t := by
  simp only [exec, execRngU64, Host.Outcome.next.injEq] at h
  split at h
  · cases hd : s.draw64 with
    | error e =>
      rw [hd] at h
      simp only [State.draw64] at hd
      split at hd
      · cases hd
      · simp only [Except.error.injEq] at hd
        subst hd
        exact .ofRaise _ (by simp) h
    | ok v =>
      obtain ⟨d, u⟩ := v
      rw [hd] at h
      obtain ⟨_, rfl, rfl⟩ := State.draw64_ok hd
      refine .wrote _ _ (.inr rfl) (fun r hr => ?_) rfl h.symm
      simp only [Instr.destinations, List.mem_cons, List.not_mem_nil, or_false, not_or] at hr
      exact (Regs.read_write_other
        (({ s with gen := (s.cfg.prngNextU64 s.gen).2 } : State).setX rd _) _ hr.2).trans
        (Regs.read_write_other { s with gen := (s.cfg.prngNextU64 s.gen).2 } _ hr.1)
  · exact .ofRaise _ (fun _ => ⟨_, rfl⟩) h

/-- `PIX.STEP` answers one of the forms of `Answered` (R161). -/
theorem answered_pixStep {imm : Byte} {s t : State} (h : exec (.pixStep imm) s = .next t) :
    Answered (.pixStep imm) s t := by
  simp only [exec, execPixStep, Host.Outcome.next.injEq] at h
  split at h
  · rename_i hi
    cases hd : s.stepPixel (pixelIndex imm) with
    | error e =>
      obtain ⟨_, _, rfl⟩ := State.stepPixel_error hd
      rw [hd] at h
      exact .ofRaise _ (by simp) h
    | ok u =>
      rw [hd] at h
      exact .stepped imm rfl hi u hd h.symm
  · exact .ofRaise _ (by simp) h

/-- `SCH.STEPALL` answers one of the forms of `Answered` (R206). -/
theorem answered_schStepall {s t : State} (h : exec .schStepall s = .next t) :
    Answered .schStepall s t := by
  simp only [exec, execSchStepall] at h
  split at h
  · rename_i hi
    simp only [Host.Outcome.next.injEq, State.stepNext] at h
    cases hd : s.stepPixel s.pidx.toNat with
    | error e =>
      obtain ⟨_, _, rfl⟩ := State.stepPixel_error hd
      rw [hd] at h
      exact .ofRaise _ (by simp) h
    | ok u =>
      rw [hd] at h
      refine .steppedNext rfl hi u hd ?_
      rw [← h]
      simp only
      split <;> rfl
  · cases h

/-- `SCH.RETARGET` answers one of the forms of `Answered` (R203). -/
theorem answered_schRetarget {s t : State} (h : exec .schRetarget s = .next t) :
    Answered .schRetarget s t := by
  simp only [exec, execSchRetarget, Host.Outcome.next.injEq] at h
  cases hd : s.newTarget s.now with
  | error e =>
    obtain ⟨_, rfl⟩ := State.newTarget_error hd
    rw [hd] at h
    exact .ofRaise _ (by simp) h
  | ok u =>
    rw [State.newTarget_seeded (State.newTarget_ok hd)] at h
    exact .targeted _ _ _ (.inl rfl) h.symm

/-- `SCH.REFRESH` answers one of the forms of `Answered` (R204). -/
theorem answered_schRefresh {s t : State} (h : exec .schRefresh s = .next t) :
    Answered .schRefresh s t := by
  simp only [exec, execSchRefresh, Host.Outcome.next.injEq] at h
  split at h
  · cases hd : s.newTarget s.now with
    | error e =>
      obtain ⟨_, rfl⟩ := State.newTarget_error hd
      rw [hd] at h
      exact .ofRaise _ (by simp) h
    | ok u =>
      rw [State.newTarget_seeded (State.newTarget_ok hd)] at h
      exact .targeted _ _ _ (.inr rfl) h.symm
  · exact .passed (.inl rfl) h.symm

/-- Whatever an operation answers has one of the forms of `Answered`. -/
theorem exec_answered {i : Instr} {s t : State} (h : exec i s = .next t) : Answered i s t := by
  cases i with
  | seqJmp imm =>
    simp only [exec, execSeqJmp, Host.Outcome.next.injEq] at h
    exact .jumped imm rfl h.symm
  | seqHalt =>
    simp only [exec, execSeqHalt, Host.Outcome.next.injEq] at h
    exact .halted rfl h.symm
  | clkInit =>
    simp only [exec, execClkInit, Host.Outcome.next.injEq] at h
    split at h
    · exact .ofRaise _ (by simp) h
    · rename_i hi
      split at h
      · exact .started rfl (by simpa using hi) h.symm
      · exact .raised _ s.entropy s.resOk.next (by simp) (by simp) (by simp) h.symm
  | clkNow rd =>
    simp only [exec, execClkNow, Host.Outcome.next.injEq] at h
    exact .ofWrite rd _ _ rfl (.inl rfl) rfl h
  | clkElapsed rd rs =>
    simp only [exec, execClkElapsed, Host.Outcome.next.injEq] at h
    exact .ofWrite rd _ _ rfl (.inl rfl) rfl h
  | clkMicros rd rs =>
    simp only [exec, execClkMicros, Host.Outcome.next.injEq] at h
    exact .ofWrite rd _ _ rfl (.inl rfl) rfl h
  | clkMillis rd rs =>
    simp only [exec, execClkMillis, Host.Outcome.next.injEq] at h
    exact .ofWrite rd _ _ rfl (.inl rfl) rfl h
  | rngSeed => exact answered_rngSeed h
  | rngU32 rd => exact answered_rngU32 h
  | rngU64 rd => exact answered_rngU64 h
  | pixStep imm => exact answered_pixStep h
  | frmCompose =>
    simp only [exec, execFrmCompose, Host.Outcome.next.injEq] at h
    exact .composed rfl h.symm
  | frmXmit => exact answered_frmXmit h
  | schRetarget => exact answered_schRetarget h
  | schRefresh => exact answered_schRefresh h
  | schStepall => exact answered_schStepall h
  | schWait =>
    simp only [exec, execSchWait, Host.Outcome.next.injEq] at h
    split at h
    · exact .passed (.inr ⟨rfl, ‹_›⟩) h.symm
    · exact .polled rfl h.symm

/-- No operation changes the configuration (R33). -/
theorem exec_cfg {i : Instr} {s t : State} (h : exec i s = .next t) : t.cfg = s.cfg := by
  rcases exec_answered h with _ | _ | _ | _ | _ | _ | _ | _ | _ | _ | _ | _ | _ | _ | _ | _
  all_goals subst_vars
  all_goals try rfl
  · simp only [State.acceptSample]
    split <;> rfl
  · obtain ⟨p, c, g, rfl, _⟩ := State.stepPixel_writes ‹_›
    rfl
  · obtain ⟨p, c, g, rfl, _⟩ := State.stepPixel_writes ‹_›
    split <;> rfl

/-- No operation moves the schedule (log entry 2). -/
theorem exec_schedule {i : Instr} {s t : State} (h : exec i s = .next t) :
    t.schedule = s.schedule := by
  rcases exec_answered h with _ | _ | _ | _ | _ | _ | _ | _ | _ | _ | _ | _ | _ | _ | _ | _
  all_goals subst_vars
  all_goals try rfl
  · simp only [State.acceptSample]
    split <;> rfl
  · obtain ⟨p, c, g, rfl, _⟩ := State.stepPixel_writes ‹_›
    rfl
  · obtain ⟨p, c, g, rfl, _⟩ := State.stepPixel_writes ‹_›
    split <;> rfl

/-- One more execution of a repeated operation is `exec` from where the earlier ones ended. -/
theorem execRepeat_succ {i : Instr} {n : Nat} {s t : State} (h : execRepeat i n s = .next t) :
    execRepeat i (n + 1) s = exec i t := by
  induction n generalizing s with
  | zero =>
    simp only [execRepeat, Host.Outcome.next.injEq] at h
    subst h
    simp only [execRepeat]
    cases exec i s <;> rfl
  | succ n ih =>
    rw [execRepeat] at h ⊢
    cases hu : exec i s with
    | next u => rw [hu] at h; exact ih h
    | fault r => rw [hu] at h; cases h
    | refused r => rw [hu] at h; cases h

/-- A step of `SCH.STEPALL` whose pixel step answers (R206). -/
theorem exec_schStepall_ok {s u : State} (hi : s.pidx.toNat < s.cfg.pixels)
    (hu : s.stepPixel s.pidx.toNat = .ok u) :
    exec .schStepall s = .next
      (if s.pidx.toNat + 1 = s.cfg.pixels then State.advance { u with pidx := 0 }
       else { u with pidx := s.pidx + 1 }) := by
  simp only [exec, execSchStepall, if_pos hi, State.stepNext, hu]
  split <;> rfl

end Sys2Proof.Machine
end

