-- ==== Sys2Proof/Laws/PerInstr.lean ====
section
/-! SUPPORT. Families stated once per constructor of Instr. -/

namespace Sys2Proof.Laws.RowMatch

/-- The opcode map has a row with the instruction's mnemonic, and the word of a well-formed instruction
matches that row's mask and pattern (30_encoding R93, R95). -/
def Statement (i : Instr) : Prop :=
  ∃ r ∈ opcodeRows, r.mnemonic = i.mnemonic ∧ (i.wellFormed = true → r.admits (encode i) = true)

/-- A row found by its place in the opcode map settles the statement. -/
theorem of_row {i : Instr} (n : Nat) (r : OpcodeRow) (hr : opcodeRows[n]? = some r)
    (hm : r.mnemonic = i.mnemonic) (ha : i.wellFormed = true → r.admits (encode i) = true) :
    Statement i :=
  ⟨r, List.mem_of_getElem? hr, hm, ha⟩

theorem seqJmp (imm : Byte) : Statement (.seqJmp imm) :=
  of_row 0 _ rfl rfl (fun _ => by revert imm; decide +kernel)
theorem seqHalt : Statement .seqHalt := of_row 1 _ rfl rfl (fun _ => rfl)
theorem clkInit : Statement .clkInit := of_row 2 _ rfl rfl (fun _ => rfl)
theorem clkNow (rd : Reg) : Statement (.clkNow rd) :=
  of_row 3 _ rfl rfl (fun _ => by cases rd <;> rfl)
theorem clkElapsed (rd rs : Reg) : Statement (.clkElapsed rd rs) :=
  of_row 4 _ rfl rfl (fun _ => by cases rd <;> cases rs <;> rfl)
theorem clkMicros (rd rs : Reg) : Statement (.clkMicros rd rs) :=
  of_row 5 _ rfl rfl (fun _ => by cases rd <;> cases rs <;> rfl)
theorem clkMillis (rd rs : Reg) : Statement (.clkMillis rd rs) :=
  of_row 6 _ rfl rfl (fun _ => by cases rd <;> cases rs <;> rfl)
theorem rngSeed : Statement .rngSeed := of_row 7 _ rfl rfl (fun _ => rfl)
theorem rngU32 (rd : Reg) : Statement (.rngU32 rd) :=
  of_row 8 _ rfl rfl (fun _ => by cases rd <;> rfl)
theorem rngU64 (rd : Reg) : Statement (.rngU64 rd) :=
  of_row 9 _ rfl rfl (fun h => by cases rd <;> first | rfl | cases h)
theorem pixStep (imm : Byte) : Statement (.pixStep imm) :=
  of_row 10 _ rfl rfl (fun _ => by revert imm; decide +kernel)
theorem frmCompose : Statement .frmCompose := of_row 11 _ rfl rfl (fun _ => rfl)
theorem frmXmit : Statement .frmXmit := of_row 12 _ rfl rfl (fun _ => rfl)
theorem schRetarget : Statement .schRetarget := of_row 13 _ rfl rfl (fun _ => rfl)
theorem schRefresh : Statement .schRefresh := of_row 14 _ rfl rfl (fun _ => rfl)
theorem schStepall : Statement .schStepall := of_row 15 _ rfl rfl (fun _ => rfl)
theorem schWait : Statement .schWait := of_row 16 _ rfl rfl (fun _ => rfl)

end Sys2Proof.Laws.RowMatch
end

