-- ==== Sys2Proof/Tests/Slice0.lean ====
section
/-! SUPPORT. The implementer's own tests. Expected values come from spec 95_test_vectors (the vector's id
stands at each test) or from the rule named; the `witness_` theorems show, for each statement with
hypotheses, a state and operands that meet them all. -/

namespace Sys2Proof.Tests

open Machine

-- The tests one after the other: each `decide` on its own thread would ask for too many stacks at once.
set_option Elab.async false

/-! ### The fixture -/

/-- `TESTCFG` with `N = 4` (95_test_vectors section 2): a test's configuration, not the hardware's. -/
def fixture : Cfg where
  pixels := 4
  tickHz := 1000000
  refreshTicks := 5000
  frameMinTicks := 1000
  curve := Vector.ofFn (fun i =>
    BitVec.ofNat 8 (if i.val ≤ 127 then 2 * i.val else 2 * (255 - i.val)))
  satlut := Vector.ofFn (fun i => BitVec.ofNat 8 (128 + i.val / 2))
  gamma := Vector.ofFn (fun i => BitVec.ofNat 8 (i.val * i.val / 255))
  perm := ⟨.g, .r, .b⟩
  converter := .reference
  generator := .testFixture
  samplesPerHalf := 4
  prog := referenceProg

/-- The reset state of the fixture with the next turns and the `RES_OK` readings laid out. -/
def start (turns : List Turn) : State :=
  { State.resetWith fixture with schedule := ⟨turns, 0⟩, resOk := ⟨[true], 0⟩ }

/-- A seeded state of the fixture with a running clock, about to run `PROG[pc]`. -/
def running (pc : Byte) (turns : List Turn) : State :=
  { start turns with
    pc := pc
    inited := true
    seeded := true
    scnt := 8 }

/-- The state an outcome answers. -/
def answer (o : Host.Outcome State Fault Refusal) : Option State :=
  match o with
  | .next t => some t
  | .fault _ => none
  | .refused _ => none

/-- Some fields of the answered state. -/
def field {α : Type} (f : State → α) (o : Host.Outcome State Fault Refusal) : Option α :=
  (answer o).map f

/-- The fault registers and `pc`. -/
def faulted (s : State) : BitVec 4 × Byte × Bool × Byte := (s.fault, s.fpc, s.halted, s.pc)

/-! ### Well-formedness -/

theorem test_wellFormed_refuses_odd_pair :
    (Instr.rngU64 .x1).wellFormed = false ∧ (Instr.rngU64 .x3).wellFormed = false := by decide

/-! ### Decoding: words written out from the patterns of 30_encoding R95 -/

theorem test_decode_seqJmp : decode 0b0000000100000100 = .ok (.seqJmp 4) := by decide
theorem test_decode_seqHalt : decode 0b0000001000000000 = .ok .seqHalt := by decide
theorem test_decode_clkInit : decode 0b0001000000000000 = .ok .clkInit := by decide
theorem test_decode_clkNow : decode 0b0001000100110000 = .ok (.clkNow .x3) := by decide
theorem test_decode_clkElapsed :
    decode 0b0001001000110010 = .ok (.clkElapsed .x3 .x2) := by decide
theorem test_decode_clkMicros : decode 0b0001001100000010 = .ok (.clkMicros .x0 .x2) := by decide
theorem test_decode_clkMillis : decode 0b0001010000010010 = .ok (.clkMillis .x1 .x2) := by decide
theorem test_decode_rngSeed : decode 0b0010000000000000 = .ok .rngSeed := by decide
theorem test_decode_rngU32 : decode 0b0010000100100000 = .ok (.rngU32 .x2) := by decide
theorem test_decode_rngU64 : decode 0b0010001000100000 = .ok (.rngU64 .x2) := by decide
theorem test_decode_pixStep : decode 0b0011000001100011 = .ok (.pixStep 99) := by decide
theorem test_decode_frmCompose : decode 0b0100000000000000 = .ok .frmCompose := by decide
theorem test_decode_frmXmit : decode 0b0100000100000000 = .ok .frmXmit := by decide
theorem test_decode_schRetarget : decode 0b0101000000000000 = .ok .schRetarget := by decide
theorem test_decode_schRefresh : decode 0b0101000100000000 = .ok .schRefresh := by decide
theorem test_decode_schStepall : decode 0b0101001000000000 = .ok .schStepall := by decide
theorem test_decode_schWait : decode 0b0101001100000000 = .ok .schWait := by decide

/-- V-ENC-16 to V-ENC-25: words that match no row. -/
theorem test_decode_illegal :
    ∀ w ∈ [0x0000, 0x0300, 0x0001, 0x0201, 0x1001, 0x1140, 0x1101, 0x1104, 0x1280, 0x1204, 0x1500,
      0x2210, 0x2230, 0x2300, 0x3100, 0x4200, 0x5400, 0x6000, 0xFFFF],
      decodeTableWord 16 w = none := by decide

theorem test_encode_words :
    encode (.clkElapsed .x3 .x2) = 0x1232 ∧ encode (.rngU64 .x2) = 0x2220 ∧
      encode (.pixStep 99) = 0x3063 ∧ encode (.seqJmp 255) = 0x01FF := by decide

/-! ### Whole steps -/

/-- V-CLK-16 through `step`: the reference microprogram's first word. -/
theorem test_step_boots :
    field (fun t => (t.pc, t.inited, t.cnt)) (step (start [.seq])) = some (1, true, 0) := by
  decide +kernel

/-- V-SEQ-5, P4a: an illegal word, and `STATUS` after it. -/
theorem test_step_illegal :
    field State.status (step ((start []).withFetchWord 16 0x0000)) = some 0x00000504 := by
  decide +kernel

/-- V-CLK-19: the tick at the wrap; V-CLK-20: no tick before initialisation. -/
theorem test_step_tick :
    field State.cnt (step { running 0 [.tick] with cnt := 0xFFFFFFFF }) = some 0 ∧
      field State.cnt (step { start [.tick] with cnt := 5 }) = some 5 := by decide +kernel

/-- V-FRM-5: the transmitter answers OK; and it can answer FAIL. -/
theorem test_step_tx :
    field State.txst
        (step { running 8 [.tx] with txst := .busy, txAnswers := ⟨[.ok], 0⟩ }) = some .doneOk ∧
      field State.txst
        (step { running 8 [.tx] with txst := .busy, txAnswers := ⟨[.fail], 0⟩ }) =
        some .doneFail := by decide +kernel

/-- R260: reset leaves a faulted state. -/
theorem test_step_reset :
    field (fun t => (t.status, t.x .x1))
        (step { running 8 [.hostReset] with
          fault := 3, fpc := 8, halted := true, regs := ⟨0, 7, 0, 0⟩ }) = some (0, 0) := by
  decide +kernel

/-- Every row's first word runs as the first instruction after reset. -/
theorem test_step_runs_first :
    ∀ w ∈ [0x0104, 0x0200, 0x1000, 0x1130, 0x1232, 0x1302, 0x1412, 0x2000, 0x2120, 0x2220, 0x3000,
      0x4000, 0x4100, 0x5000, 0x5100, 0x5200, 0x5300],
      (answer (step (State.reset.withFetchWord 16 w))).isSome = true := by decide +kernel

/-! ### SEQ -/

/-- V-SEQ-1, V-SEQ-2. -/
theorem test_seqJmp :
    field State.pc (exec (.seqJmp 4) (running 9 [])) = some 4 ∧
      field State.pc (exec (.seqJmp 7) (running 7 [])) = some 7 := by decide +kernel

/-- V-SEQ-3. -/
theorem test_seqHalt :
    field faulted (exec .seqHalt (running 5 [])) = some (0, 0, true, 5) := by decide +kernel

/-! ### CLK -/

/-- V-CLK-17: `RES_OK = 0`. -/
theorem test_clkInit_unavailable :
    field faulted (exec .clkInit { start [] with resOk := ⟨[false], 0⟩ }) =
      some (1, 0, true, 0) := by decide +kernel

/-- V-CLK-18: the second initialisation keeps the count. -/
theorem test_clkInit_twice :
    field (fun t => (faulted t, t.cnt)) (exec .clkInit { running 1 [] with cnt := 77 }) =
      some ((4, 1, true, 1), 77) := by decide +kernel

/-- V-CLK-1, V-CLK-2; V-SEQ-4: `pc` wraps. -/
theorem test_clkNow :
    field (fun t => t.x .x2) (exec (.clkNow .x2) { start [] with regs := ⟨0, 0, 0x55, 0⟩ }) =
        some 0 ∧
      field (fun t => (t.x .x0, t.pc))
        (exec (.clkNow .x0) { running 255 [] with cnt := 0xFFFFFFFF, regs := ⟨9, 0, 0, 0⟩ }) =
        some (0xFFFFFFFF, 0) := by decide +kernel

/-- V-CLK-3, V-CLK-7: across the wrap, and with the clock not started. -/
theorem test_clkElapsed :
    field (fun t => (t.x .x3, t.x .x2))
        (exec (.clkElapsed .x3 .x2)
          { running 0 [] with cnt := 0x10, regs := ⟨0, 0, 0xFFFFFFF0, 0⟩ }) =
        some (0x20, 0xFFFFFFF0) ∧
      field (fun t => t.x .x3)
        (exec (.clkElapsed .x3 .x2) { start [] with regs := ⟨0, 0, 0x10, 0⟩ }) =
        some 0xFFFFFFF0 := by decide +kernel

/-- V-CLK-5: `rd = rs`. -/
theorem test_clkElapsed_same_register :
    field (fun t => t.x .x1)
      (exec (.clkElapsed .x1 .x1)
        { running 0 [] with cnt := 0x1234, regs := ⟨0, 0x1234, 0, 0⟩ }) = some 0 := by decide +kernel

/-- V-CLK-8, V-CLK-14: the reference rate, and truncation to 32 bits. -/
theorem test_clkMicros :
    field (fun t => t.x .x2)
        (exec (.clkMicros .x2 .x0) { running 0 [] with cnt := 2600, regs := ⟨100, 0, 0, 0⟩ }) =
        some 2500 ∧
      field (fun t => t.x .x2)
        (exec (.clkMicros .x2 .x0)
          { running 0 [] with
            cnt := 0xFFFFFFFF, cfg := { fixture with tickHz := 1000 } }) =
        some 0xFFFFFC18 := by decide +kernel

/-- V-CLK-10, V-CLK-13: rounding down. -/
theorem test_clkMillis :
    field (fun t => t.x .x2) (exec (.clkMillis .x2 .x0) { running 0 [] with cnt := 999 }) = some 0 ∧
      field (fun t => t.x .x2)
        (exec (.clkMillis .x2 .x0)
          { running 0 [] with cnt := 100, cfg := { fixture with tickHz := 32768 } }) =
        some 3 := by decide +kernel

/-! ### RNG -/

/-- V-RNG-5: the first sample of half 1, base 16, least significant byte first. -/
theorem test_rngSeed_sample :
    field (fun t => (t.mem.seedbuf, t.scnt, t.pc))
      (exec .rngSeed
        { start [] with pc := 1, scnt := 4, entropy := ⟨[.accept 0x14131211], 0⟩ }) =
      some ([(16, 0x11), (17, 0x12), (18, 0x13), (19, 0x14)], 5, 1) := by decide +kernel

/-- V-RNG-6: completion, with the fixture's generator; V-RNG-7: a timeout writes nothing. -/
theorem test_rngSeed_ends :
    field (fun t => (t.scnt, t.gen, t.seeded, t.pc))
        (exec .rngSeed
          { start [] with
            pc := 1, scnt := 7, mem := { Memory.reset with seedbuf := [(0, 1), (2, 3)] }
            entropy := ⟨[.accept 0x201F1E1D], 0⟩ }) =
        some (8, 0x00030001, true, 2) ∧
      field (fun t => (faulted t, t.scnt, t.seedByte 0))
        (exec .rngSeed
          { start [] with
            pc := 1, scnt := 1, mem := { Memory.reset with seedbuf := [(0, 0x44)] }
            entropy := ⟨[.timeout], 0⟩ }) =
        some ((2, 1, true, 1), 1, 0x44) := by decide +kernel

/-- V-RNG-10, V-RNG-13. -/
theorem test_rngU32 :
    field (fun t => (t.x .x2, t.gen)) (exec (.rngU32 .x2) (running 0 [])) =
        some (0x3C6EF35F, 0x3C6EF35F) ∧
      field (fun t => (faulted t, t.x .x2))
        (exec (.rngU32 .x2) { start [] with pc := 1, regs := ⟨0, 0, 5, 0⟩ }) =
        some ((7, 1, true, 1), 5) := by decide +kernel

/-- V-RNG-11: the low word goes to `x[rd]`. -/
theorem test_rngU64 :
    field (fun t => (t.x .x2, t.x .x3, t.gen)) (exec (.rngU64 .x2) (running 0 [])) =
      some (0x3C6EF35F, 0x47502932, 0x47502932) := by decide +kernel

/-! ### PIX -/

/-- V-PIX-20: IDLE to FADING, with a draw. -/
theorem test_pixStep_starts :
    field (fun t => (t.pix 2, t.log 2, t.gen))
      (exec (.pixStep 2)
        { running 0 [] with
          gen := 0x47502932, tgtHue := 95, tgtSat := 153
          mem := { Memory.reset with pix := [(2, ⟨7, 9, 0x1234, 0⟩)] } }) =
      some (⟨95, 153, 0, 745⟩, ⟨0, 0, 0⟩, 0xD1CCF6E9) := by decide +kernel

/-- V-PIX-21, V-PIX-22: a coloured step, and the step whose sum is exactly 65536. -/
theorem test_pixStep_fades :
    field (fun t => (t.pix 0, t.log 0))
        (exec (.pixStep 0)
          { start [] with mem := { Memory.reset with pix := [(0, ⟨95, 153, 0, 745⟩)] } }) =
        some (⟨95, 153, 745, 745⟩, ⟨2, 5, 2⟩) ∧
      field (fun t => (t.pix 0, t.log 0))
        (exec (.pixStep 0)
          { start [] with mem := { Memory.reset with pix := [(0, ⟨10, 200, 0xFF80, 128⟩)] } }) =
        some (⟨10, 200, 0xFF80, 0⟩, ⟨0, 0, 0⟩) := by decide +kernel

/-- V-BR-11, V-BR-12, V-BR-13. -/
theorem test_bright :
    fixture.bright 0x8020 = 253 ∧ fixture.bright 0x80FF = 252 ∧ fixture.bright 0xFF00 = 0 := by
  decide +kernel

/-- V-PIX-3, V-PIX-4, V-PIX-6. -/
theorem test_rateOf : rateOf 0x80 = 128 ∧ rateOf 0x81 = 129 ∧ rateOf 0xFFFFFC00 = 128 := by decide

/-- V-HSV-14, V-HSV-16. -/
theorem test_hsv2rgbRef :
    hsv2rgbRef 21 128 200 = ⟨200, 149, 99⟩ ∧ hsv2rgbRef 95 153 5 = ⟨2, 5, 2⟩ := by decide

/-! ### FRM -/

/-- V-FRM-1: composition, and the frame bytes. -/
theorem test_frmCompose :
    field State.frameBytes
      (exec .frmCompose
        { running 7 [] with
          cfg := { fixture with pixels := 3 }
          mem := { Memory.reset with log := [(0, ⟨200, 149, 99⟩), (2, ⟨255, 1, 16⟩)] } }) =
      some [0x57, 0x9C, 0x26, 0, 0, 0, 0, 0xFF, 1] := by decide +kernel

/-- V-FRM-3, V-FRM-7. -/
theorem test_frmXmit :
    field (fun t => (t.x .x1, t.txst, t.pc, t.events))
        (exec .frmXmit { running 8 [] with cnt := 5000, cfg := { fixture with pixels := 1 } }) =
        some (5000, .busy, 8, [⟨5000, [0, 0, 0]⟩]) ∧
      field (fun t => (faulted t, t.txst, t.status))
        (exec .frmXmit { running 8 [] with txst := .doneFail }) =
        some ((3, 8, true, 8), .doneFail, 0x0808031F) := by decide +kernel

/-! ### SCH -/

/-- V-SCH-1. -/
theorem test_schRetarget :
    field (fun t => (t.tgtHue, t.tgtSat, t.x .x0, t.gen))
      (exec .schRetarget { running 2 [] with cnt := 7 }) =
      some (0x5F, 153, 7, 0x47502932) := by decide +kernel

/-- V-SCH-5: due across the wrap; V-SCH-4's edge: one tick less is not due. -/
theorem test_schRefresh :
    field (fun t => (t.x .x0, t.tgtHue))
        (exec .schRefresh { running 4 [] with cnt := 0x388, regs := ⟨0xFFFFF000, 0, 0, 0⟩ }) =
        some (0x388, 0x5F) ∧
      field (fun t => (t.x .x0, t.tgtHue))
        (exec .schRefresh { running 4 [] with cnt := 0x387, regs := ⟨0xFFFFF000, 0, 0, 0⟩ }) =
        some (0xFFFFF000, 0) := by decide +kernel

/-- V-SCH-8's last step, and V-SCH-10's second. -/
theorem test_schStepall :
    field (fun t => (t.pidx, t.pc)) (exec .schStepall { running 5 [] with pidx := 3 }) =
        some (0, 6) ∧
      field (fun t => (faulted t, t.pidx)) (exec .schStepall { start [] with pc := 5, pidx := 1 }) =
        some ((7, 5, true, 5), 1) := by decide +kernel

/-- V-SCH-13: across the wrap, 999 and 1000 ticks. -/
theorem test_schWait :
    field State.pc
        (exec .schWait { running 6 [] with cnt := 0x2E7, regs := ⟨0, 0xFFFFFF00, 0, 0⟩ }) = some 6 ∧
      field State.pc
        (exec .schWait { running 6 [] with cnt := 0x2E8, regs := ⟨0, 0xFFFFFF00, 0, 0⟩ }) =
        some 7 := by decide +kernel

/-! ### Views, ends and the assembler -/

/-- V-ST-2. -/
theorem test_status : ({ running 8 [] with txst := .busy } : State).status = 0x0800000B := by
  decide +kernel

/-- R213: neither end holds while the sequencer runs. -/
theorem test_ends :
    ({ running 4 [] with halted := true } : State).endedNormally = true ∧
      (running 4 []).endedNormally = false ∧
      ({ running 4 [] with halted := true, fault := 5 } : State).endedInFault = true := by
  decide +kernel

/-- R98: `.org`, labels, aliases, a comment; R99: `SPIN`. -/
theorem test_assemble :
    assemble "CLK.ELAPSED x3, x2 ; c\n.org 0x10\nhere: SPIN\nSEQ.JMP here\nCLK.NOW tfrm".toList =
      some [(0, 0x1232), (16, 0x0110), (17, 0x0110), (18, 0x1110)] := by decide +kernel

/-- R98, R96: an odd pair is no operation. -/
theorem test_assemble_refuses : assemble "RNG.U64 x1".toList = none := by decide +kernel

/-- R171, R186: the fixture meets the named assumptions it is said to meet. -/
theorem test_fixture_starts_zero :
    fixture.curveStartsZero ∧ fixture.curveWrapLow ∧ fixture.gammaZero := by
  unfold Cfg.curveStartsZero Cfg.curveWrapLow Cfg.gammaZero
  decide +kernel


/-! ### Witnesses: the hypotheses of each statement can be met together -/

/-- An outcome with a field of a given value is a next state. -/
theorem exists_next {α : Type} {f : State → α} {o : Host.Outcome State Fault Refusal} {a : α}
    (h : field f o = some a) : ∃ t, o = .next t ∧ f t = a := by
  cases o with
  | next t => exact ⟨t, rfl, by simpa [field, answer] using h⟩
  | fault r => simp [field, answer] at h
  | refused r => simp [field, answer] at h

theorem witness_decodeOfEncode : (Instr.rngU64 .x2).wellFormed = true := by decide

theorem witness_encodeOfDecode : decode 0x2220 = .ok (.rngU64 .x2) := by decide

theorem witness_decoderFollowsTheUniqueRow :
    (∃ r, opcodeRows[9]? = some r ∧ r ∈ opcodeRows ∧ (0x2220 : OpWord) &&& r.mask = r.pattern) ∧
      (∀ r ∈ opcodeRows, (0x0000 : OpWord) &&& r.mask ≠ r.pattern) :=
  ⟨⟨_, rfl, List.mem_of_getElem? (i := 9) rfl, by decide⟩, by decide⟩

/-- A word at the edge of each clause of R96. -/
theorem witness_illegalWords :
    6 ≤ (unitField 0x6000).toNat ∧
    (unitField 0x0001 = 0 ∧ fnField 0x0001 = 0) ∧
    (unitField 0x0300 = 0 ∧ 3 ≤ (fnField 0x0300).toNat) ∧
    (unitField 0x1500 = 1 ∧ 5 ≤ (fnField 0x1500).toNat) ∧
    (unitField 0x2300 = 2 ∧ 3 ≤ (fnField 0x2300).toNat) ∧
    (unitField 0x3100 = 3 ∧ 1 ≤ (fnField 0x3100).toNat) ∧
    (unitField 0x4200 = 4 ∧ 2 ≤ (fnField 0x4200).toNat) ∧
    (unitField 0x5400 = 5 ∧ 4 ≤ (fnField 0x5400).toNat) ∧
    ([0x0201, 0x0280, 0x1001, 0x2080, 0x4001, 0x4180, 0x5001, 0x5380] : List OpWord).all (fun w =>
      (w &&& 0xFF00 = 0x0200 ∨ w &&& 0xFF00 = 0x1000 ∨ w &&& 0xFF00 = 0x2000 ∨
        w &&& 0xFE00 = 0x4000 ∨ w &&& 0xFC00 = 0x5000) ∧ w &&& 0x00FF ≠ 0) = true ∧
    ([0x1101, 0x1180, 0x2108, 0x2140] : List OpWord).all (fun w =>
      (w &&& 0xFF00 = 0x1100 ∨ w &&& 0xFF00 = 0x2100) ∧ w &&& 0x00CF ≠ 0) = true ∧
    ([0x1204, 0x1380, 0x1408] : List OpWord).all (fun w =>
      (w &&& 0xFF00 = 0x1200 ∨ w &&& 0xFF00 = 0x1300 ∨ w &&& 0xFF00 = 0x1400) ∧
        w &&& 0x00CC ≠ 0) = true ∧
    ([0x2201, 0x2210, 0x2280] : List OpWord).all (fun w =>
      w &&& 0xFF00 = 0x2200 ∧ w &&& 0x00DF ≠ 0) = true := by decide

/-- The state of `witness_illegalState`: about to fetch 0x0000, past the reference microprogram. -/
def pastTheProgram : State := running 10 [.seq]

theorem witness_illegalState :
    pastTheProgram.cfg.accepted = true ∧ pastTheProgram.turn = .seq ∧
      pastTheProgram.halted = false ∧
      ∀ r ∈ opcodeRows, pastTheProgram.fetch &&& r.mask ≠ r.pattern := by decide +kernel

theorem witness_stepRuns :
    (start [.seq]).cfg.accepted = true ∧ (start [.seq]).turn = .seq ∧
      (start [.seq]).halted = false ∧ decode (start [.seq]).fetch = .ok .clkInit := by
  decide +kernel

theorem witness_placedWord :
    (start []).cfg.accepted = true ∧ (start []).halted = false ∧
      canonFrom 0 256 0 (start []).cfg.prog = true ∧ 0x5300 < 65536 ∧
      decodeTableWord 16 0x5300 = some .schWait := by decide +kernel

/-- A halted and a held sequencer, a stopped clock, an idle transmitter. -/
theorem witness_turnPasses :
    (fixture.accepted = true ∧ (pastTheProgram.turn = .seq ∧
      ({ pastTheProgram with halted := true } : State).halted = true)) ∧
    ((running 8 [.seq]).turn = .seq ∧ decode (running 8 [.seq]).fetch = .ok .frmXmit ∧
      ({ running 8 [.seq] with txst := .busy } : State).txst = .busy) ∧
    ((start [.tick]).turn = .tick ∧ (start [.tick]).inited = false) ∧
    ((start [.tx]).turn = .tx ∧ (start [.tx]).txst ≠ .busy) := by decide +kernel

theorem witness_tickTurn :
    (running 8 [.tick]).cfg.accepted = true ∧ (running 8 [.tick]).turn = .tick ∧
      (running 8 [.tick]).inited = true := by decide +kernel

theorem witness_txTurn :
    ∀ a ∈ [TxAnswer.ok, TxAnswer.fail],
      fixture.accepted = true ∧ (running 8 [.tx]).turn = .tx ∧
        ({ running 8 [.tx] with txst := .busy, txAnswers := ⟨[a], 0⟩ } : State).txst = .busy ∧
        ({ running 8 [.tx] with txst := .busy, txAnswers := ⟨[a], 0⟩ } : State).txAnswer = a := by
  decide +kernel

theorem witness_resetComplete :
    ∃ s, s = State.resetWith fixture ∧ 31 < 32 ∧ 3 < fixture.pixels := ⟨_, rfl, by decide +kernel⟩

theorem witness_hostReset :
    (running 8 [.hostReset]).cfg.accepted = true ∧
      (running 8 [.hostReset]).turn = .hostReset := by decide +kernel

/-- The bounds of R7 from both sides. -/
theorem witness_configurationBounds :
    ({ fixture with pixels := 1 } : Cfg).accepted = true ∧
    ({ fixture with pixels := 256 } : Cfg).accepted = true ∧
    ({ fixture with samplesPerHalf := 1 } : Cfg).accepted = true ∧
    ({ fixture with tickHz := 1 } : Cfg).accepted = true ∧
    ({ fixture with pixels := 0 } : Cfg).accepted = false ∧
    ({ fixture with pixels := 257 } : Cfg).accepted = false ∧
    ({ fixture with tickHz := 0 } : Cfg).accepted = false ∧
    ({ fixture with samplesPerHalf := 0 } : Cfg).accepted = false ∧
    ({ fixture with samplesPerHalf := 5 } : Cfg).accepted = false ∧
    ({ fixture with perm := ⟨.g, .r, .g⟩ } : Cfg).accepted = false := by decide +kernel

theorem witness_stepAnswers : ∃ t, step (start [.seq]) = .next t ∧ t.pc = 1 :=
  exists_next (by decide +kernel)

theorem witness_seqHalt : ∃ t, exec .seqHalt (running 5 []) = .next t ∧ t.halted = true :=
  exists_next (by decide +kernel)

theorem witness_clkInit :
    (running 1 []).inited = true ∧
    ((start []).inited = false ∧ (start []).resOkNow = true) ∧
    ({ start [] with resOk := ⟨[false], 0⟩ } : State).resOkNow = false := by decide +kernel

/-- The elapsed time of `witness_clkElapsed`: across the wrap, and no time at all. -/
def wrapped : State := { running 0 [] with cnt := 0x10, regs := ⟨0x10, 0, 0xFFFFFFF0, 0⟩ }

theorem witness_clkElapsed :
    (0x10 : Word) = (if wrapped.inited = true then wrapped.cnt else 0) ∧
      (0x10 : Word).toNat < (wrapped.x .x2).toNat ∧ (0x10 : Word) = wrapped.x .x0 := by
  decide +kernel

theorem witness_scaledQueries :
    (0x20 : Word) = (if wrapped.inited = true then wrapped.cnt else 0) - wrapped.x .x2 ∧
      wrapped.cfg.tickHz = 1000000 := by decide +kernel

/-- An unseeded state after `n` samples, with one entropy answer laid out. -/
def sampling (n : BitVec 4) (a : EntropyAnswer) : State :=
  { start [] with scnt := n, entropy := ⟨[a], 0⟩ }

/-- Each case of `RNG.SEED`: seeded; the three answers; the first, the last but one and the last
sample. -/
theorem witness_rngSeed :
    ((running 1 []).mem.wf 4 = true ∧ (running 1 []).seeded = true) ∧
    ([0, 6, 7] : List (BitVec 4)).all (fun n =>
      [EntropyAnswer.timeout, .needMore, .accept 0xFFFFFFFF].all (fun a =>
        (sampling n a).mem.wf (sampling n a).cfg.pixels = true ∧
        1 ≤ (sampling n a).cfg.samplesPerHalf ∧ (sampling n a).cfg.samplesPerHalf ≤ 4 ∧
        (sampling n a).seeded = false ∧
        (sampling n a).scnt.toNat < 2 * (sampling n a).cfg.samplesPerHalf ∧
        (sampling n a).entropyAnswer = a)) = true ∧
    (sampling 6 .needMore).scnt.toNat + 1 ≠ 2 * (sampling 6 .needMore).cfg.samplesPerHalf ∧
    (sampling 7 .needMore).scnt.toNat + 1 = 2 * (sampling 7 .needMore).cfg.samplesPerHalf := by
  decide +kernel

/-- Both sides of the seed test, and both register pairs (R147, R148, R203, R272). -/
theorem witness_seeded :
    (running 0 []).seeded = true ∧ (start []).seeded = false ∧
      ((Reg.x0 = .x0 ∧ Reg.x1 = .x1) ∨ (Reg.x0 = .x2 ∧ Reg.x1 = .x3)) ∧
      ((Reg.x2 = .x0 ∧ Reg.x3 = .x1) ∨ (Reg.x2 = .x2 ∧ Reg.x3 = .x3)) := by decide +kernel

/-- A state whose last pixel is `p`. -/
def withPixel (p : Pixel) : State :=
  { running 5 [] with mem := { Memory.reset with pix := [(3, p)] } }

/-- The three transitions of the last pixel, the sum at 65535 and at 65536. -/
theorem witness_pixStep :
    ((running 5 []).mem.wf 4 = true ∧ (3 : Byte).toNat < (running 5 []).cfg.pixels ∧
      ((running 5 []).pix 3).rate = 0 ∧ (running 5 []).seeded = true) ∧
    ((withPixel ⟨1, 2, 0xFF7F, 128⟩).mem.wf 4 = true ∧
      ((withPixel ⟨1, 2, 0xFF7F, 128⟩).pix 3).rate ≠ 0 ∧
      ((withPixel ⟨1, 2, 0xFF7F, 128⟩).pix 3).phase.toNat +
        ((withPixel ⟨1, 2, 0xFF7F, 128⟩).pix 3).rate.toNat = 65535) ∧
    ((withPixel ⟨1, 2, 0xFF80, 128⟩).mem.wf 4 = true ∧
      ((withPixel ⟨1, 2, 0xFF80, 128⟩).pix 3).rate ≠ 0 ∧
      ((withPixel ⟨1, 2, 0xFF80, 128⟩).pix 3).phase.toNat +
        ((withPixel ⟨1, 2, 0xFF80, 128⟩).pix 3).rate.toNat = 65536) := by decide +kernel

/-- The index at `N` and just below it; an IDLE pixel without a seed; a FADING one. -/
theorem witness_pixStepFaults :
    (start []).cfg.pixels ≤ (4 : Byte).toNat ∧
    ((3 : Byte).toNat < (start []).cfg.pixels ∧ ((start []).pix 3).rate = 0 ∧
      (start []).seeded = false) ∧
    ((withPixel ⟨1, 2, 0, 200⟩).pix 3).rate ≠ 0 := by decide +kernel

/-- The ends of the curve: the last index with the last fraction, and a whole index. -/
theorem witness_brightness :
    (255 = (0xFFFF : Half).toNat / 256 ∧ 255 = (0xFFFF : Half).toNat % 256) ∧
    (255 = (0xFF00 : Half).toNat / 256 ∧ 0 = (0xFF00 : Half).toNat % 256) ∧
    (0x12FE : Half).toNat % 256 ≠ 255 ∧ (0x12FF : Half).toNat % 256 = 255 := by decide

theorem witness_rateDraw : (0xFFFFFC80 : Word).toNat % 1024 ≤ 128 := by decide

/-- A fade cycle of rate 863 (V-PIX-12), and one of rate 128 (V-PIX-9). -/
theorem witness_fadeCycle :
    ((running 0 []).mem.wf (running 0 []).cfg.pixels = true ∧
      (3 : Byte).toNat < (running 0 []).cfg.pixels ∧ ((running 0 []).pix 3).rate = 0 ∧
      (running 0 []).seeded = true ∧
      863 = (rateOf (fixture.prngNextU32 (running 0 []).gen).1).toNat ∧
      76 = (65536 + 863 - 1) / 863 ∧ 75 < 76) ∧
    (128 = (rateOf (fixture.prngNextU32 0x9F2EC686).1).toNat ∧
      512 = (65536 + 128 - 1) / 128) := by decide +kernel

theorem witness_pixelIndexes : 0 < (running 7 []).cfg.pixels ∧ 3 < (running 7 []).cfg.pixels := by
  decide +kernel

/-- The four values of `TXST` at `FRM.XMIT`. -/
theorem witness_xmit :
    (running 8 []).txst = .idle ∧
    (∀ x ∈ [TxState.busy, .doneOk, .doneFail],
      ({ running 8 [] with txst := x } : State).txst = x) := by decide +kernel

theorem witness_retarget :
    (running 2 []).cfg.prngNextU32 (running 2 []).gen = (0x3C6EF35F, 0x3C6EF35F) ∧
      (running 2 []).cfg.prngNextU32 0x3C6EF35F = (0x47502932, 0x47502932) := by decide +kernel

/-- The refresh one tick before it is due, and exactly due, with and without a seed. -/
theorem witness_refresh :
    (((if (running 4 []).inited = true then (4999 : Word) else 0) - (running 4 []).x .x0).toNat <
      (running 4 []).cfg.refreshTicks.toNat) ∧
    ((running 4 []).cfg.refreshTicks.toNat ≤
      ((if (running 4 []).inited = true then (5000 : Word) else 0) - (running 4 []).x .x0).toNat ∧
      (running 4 []).seeded = true) ∧
    (({ fixture with refreshTicks := 0 } : Cfg).refreshTicks.toNat ≤
      ((0 : Word) - (start []).x .x0).toNat ∧ (start []).seeded = false) := by decide +kernel

/-- `PIDX` at the first, the last but one and the last pixel; an IDLE pixel without a seed. -/
theorem witness_stepall :
    ([0, 2, 3] : List Byte).all (fun k =>
      ({ running 5 [] with pidx := k } : State).pidx.toNat <
        ({ running 5 [] with pidx := k } : State).cfg.pixels) = true ∧
    (3 : Byte).toNat = (running 5 []).cfg.pixels - 1 ∧
    (2 : Byte).toNat ≠ (running 5 []).cfg.pixels - 1 ∧
    ((running 5 []).mem.wf (running 5 []).cfg.pixels = true ∧ 1 ≤ (running 5 []).cfg.pixels ∧
      (running 5 []).cfg.pixels ≤ 256 ∧ (running 5 []).seeded = true ∧ (running 5 []).pidx = 0 ∧
      ∀ j, j < (running 5 []).cfg.pixels → ((running 5 []).pix j).rate = 0) ∧
    ((start []).seeded = false ∧ ((start []).pix (start []).pidx.toNat).rate = 0) := by
  decide +kernel

/-- A poll one tick early and one exactly on time; a clock that was never started. -/
theorem witness_wait :
    (((if (running 6 []).inited = true then (999 : Word) else 0) - (running 6 []).x .x1).toNat <
      (running 6 []).cfg.frameMinTicks.toNat) ∧
    ((running 6 []).cfg.frameMinTicks.toNat ≤
      ((if (running 6 []).inited = true then (1000 : Word) else 0) -
        (running 6 []).x .x1).toNat) ∧
    ((start []).inited = false ∧
      ((0 : Word) - (start []).x .x1).toNat < (start []).cfg.frameMinTicks.toNat) := by
  decide +kernel

theorem witness_operationFrame :
    (running 5 []).mem.wf (running 5 []).cfg.pixels = true ∧
      ∃ t, exec .schStepall (running 5 []) = .next t ∧ t.pidx = 1 :=
  ⟨by decide +kernel, exists_next (by decide +kernel)⟩

theorem witness_faultsArePrecise :
    ∃ t, exec (.pixStep 4) (running 0 []) = .next t ∧ t.fault = 6 :=
  exists_next (by decide +kernel)

/-- Every disjunct of R272's list. -/
theorem witness_drawsNeedASeed :
    (start []).seeded = false ∧ (Instr.rngU64 .x2).wellFormed = true ∧
    ({ fixture with refreshTicks := 0 } : Cfg).refreshTicks.toNat ≤
      ((if (start []).inited = true then (start []).cnt else 0) - (start []).x .x0).toNat ∧
    ((3 : Byte).toNat < (start []).cfg.pixels ∧ ((start []).pix 3).rate = 0) ∧
    ((start []).pidx.toNat < (start []).cfg.pixels ∧
      ((start []).pix (start []).pidx.toNat).rate = 0) := by decide +kernel

theorem witness_haltIsLeftOnlyByReset :
    ({ running 9 [.seq] with halted := true, fault := 3 } : State).halted = true ∧
      ({ running 9 [.seq] with halted := true, fault := 3 } : State).turn ≠ .hostReset ∧
      ∃ t, step { running 9 [.seq] with halted := true, fault := 3 } = .next t ∧ t.fault = 3 :=
  ⟨by decide +kernel, by decide +kernel, exists_next (by decide +kernel)⟩

/-- A legal state that is not the reset state. -/
theorem witness_legal : (running 5 [.seq]).Legal where
  rates _ _ := .inl rfl
  pidx := by decide +kernel
  scnt := by decide +kernel
  fault h := absurd rfl h
  seeded _ := rfl
  unseeded h := by cases h
  memory := rfl

theorem witness_everyStepKeepsLegal :
    (running 5 [.seq]).cfg.accepted = true ∧
      ∃ t, step (running 5 [.seq]) = .next t ∧ t.pidx = 1 :=
  ⟨by decide +kernel, exists_next (by decide +kernel)⟩

/-- A transmission in flight, one pixel long. -/
def flying (turns : List Turn) : State :=
  { running 8 turns with
    cfg := { fixture with pixels := 1, frameMinTicks := 2 }
    txst := .busy
    cnt := 7
    regs := ⟨0, 7, 0, 0⟩
    events := [⟨7, [0, 0, 0]⟩]
    txAnswers := ⟨[.ok], 0⟩ }

theorem witness_inFlight :
    (flying [.tick]).InFlight ∧ ∃ t, step (flying [.tick]) = .next t ∧ t.txst = .busy :=
  ⟨⟨rfl, by decide +kernel, by decide +kernel, by decide +kernel⟩,
    exists_next (by decide +kernel)⟩

/-- One turn of each agent but the host. -/
theorem witness_clockCounts :
    (flying [.tick, .seq, .tx]).inited = true ∧ (flying [.tick, .seq, .tx]).noResetIn 3 ∧
      ∃ t, core.run 3 (flying [.tick, .seq, .tx]) = .next t ∧ t.cnt = 8 :=
  ⟨rfl, by unfold State.noResetIn; decide +kernel, exists_next (f := State.cnt) (by decide +kernel)⟩

/-- The turns from one initiation to the next, two ticks apart. -/
def oneIteration : List Turn := [.tx, .seq, .seq, .seq, .seq, .tick, .tick, .seq, .seq, .seq]

theorem witness_frameSpacing :
    (flying oneIteration).cfg.prog = referenceProg ∧ (flying oneIteration).inited = true ∧
      (flying oneIteration).halted = false ∧ (flying oneIteration).pc = 8 ∧
      (flying oneIteration).txst = .busy ∧ (flying oneIteration).x .x1 = (flying oneIteration).cnt ∧
      (flying oneIteration).noResetIn 9 ∧
      ∃ t, core.run 9 (flying oneIteration) = .next t ∧
        (t.turn, t.halted, t.pc, t.txst) = (.seq, false, 8, .idle) :=
  ⟨rfl, rfl, rfl, rfl, rfl, rfl, by unfold State.noResetIn; decide +kernel,
    exists_next (f := fun t : State => (t.turn, t.halted, t.pc, t.txst)) (by decide +kernel)⟩

theorem witness_referenceProgram :
    (running 9 [.seq]).cfg.prog = referenceProg ∧ (running 9 [.seq]).pc.toNat ≤ 9 ∧
      (running 9 [.seq]).fault ≠ 5 ∧ (running 9 [.seq]).turn ≠ .hostReset ∧
      ∃ t, step (running 9 [.seq]) = .next t ∧ t.pc = 4 :=
  ⟨rfl, by decide +kernel, by decide +kernel, by decide +kernel, exists_next (by decide +kernel)⟩

end Sys2Proof.Tests
end

/-! A configuration that breaks R7 is refused, and nothing else is: an operation, a turn and a step are
each followed to the answers they can give. -/

namespace Sys2Proof.Machine

/-- Only `RNG.SEED` and `SCH.STEPALL` can stop the model, and only with `noSuchElement` (log entry 10);
every other operation is one `.next`. -/
theorem exec_next_or_noSuchElement (i : Instr) (s : State) :
    (∃ t, exec i s = .next t) ∨ exec i s = .fault .noSuchElement := by
  cases i with
  | rngSeed =>
    simp only [exec, execRngSeed]
    split
    · exact .inl ⟨_, rfl⟩
    · split
      · exact .inl ⟨_, rfl⟩
      · exact .inr rfl
  | schStepall =>
    simp only [exec, execSchStepall]
    split
    · exact .inl ⟨_, rfl⟩
    · exact .inr rfl
  | _ => exact .inl ⟨_, rfl⟩

/-- A SEQ turn stops the model only where its operation does (R200). -/
theorem seqTurn_next_or_noSuchElement (s : State) :
    (∃ t, seqTurn s = .next t) ∨ seqTurn s = .fault .noSuchElement := by
  simp only [seqTurn]
  split
  · exact .inl ⟨_, rfl⟩
  · split
    · exact .inl ⟨_, rfl⟩
    · exact exec_next_or_noSuchElement _ _

/-- In an accepted configuration no turn of any agent is refused (R20). -/
theorem step_next_or_noSuchElement {s : State} (h : s.cfg.accepted = true) :
    (∃ t, step s = .next t) ∨ step s = .fault .noSuchElement := by
  simp only [step, if_pos h]
  cases s.turn with
  | seq => exact seqTurn_next_or_noSuchElement _
  | tick | tx | hostReset => exact .inl ⟨_, rfl⟩

/-- The configuration alone decides a refusal (R7). -/
theorem step_eq_configurationRefused_iff (s : State) :
    step s = .refused .configurationRefused ↔ ¬ s.cfg.accepted = true := by
  constructor
  · intro hr ha
    obtain ⟨t, ht⟩ | hf := step_next_or_noSuchElement ha
    · rw [ht] at hr
      cases hr
    · rw [hf] at hr
      cases hr
  · intro ha
    rw [step, if_neg ha]

/-- The permutation test is that the three channels differ pairwise (R7). -/
theorem Perm.isPermutation_iff (p : Perm) :
    p.isPermutation = true ↔ p.p0 ≠ p.p1 ∧ p.p1 ≠ p.p2 ∧ p.p0 ≠ p.p2 := by
  simp only [Perm.isPermutation, Bool.and_eq_true, bne_iff_ne, and_assoc]

/-- Settles O14: no agent's turn is refused in an accepted configuration, and acceptance is R7's list. -/
theorem configurationOutOfRangeIsRefused : Obligations.ConfigurationOutOfRangeIsRefused := by
  intro s
  refine ⟨rfl, rfl, ?_⟩
  rw [step_eq_configurationRefused_iff, Cfg.accepted_iff, Perm.isPermutation_iff]

end Sys2Proof.Machine

/-! The state as a whole (10_state): its registers, its `STATUS` view and its reset value; what each
operation leaves alone; and the two invariants, of the reachable states and of a frame in flight. -/

namespace Sys2Proof.Machine

/-! ### Registers, views and the reset value -/

/-- Settles O16: none of the four registers is hardwired, by the law of the register file. -/
theorem registerWriteIsReadBack : Obligations.RegisterWriteIsReadBack :=
  fun s r q v => ⟨Regs.read_write s r q v, rfl⟩

/-- A field of `STATUS` is a field of the nine pieces laid end to end; their widths stand in the type, so
that the field can be located piece by piece (R24). -/
theorem State.status_extract (s : State) (start len : Nat) :
    s.status.extractLsb' start len =
      BitVec.extractLsb' (n := 8 + 8 + 4 + 4 + 3 + 2 + 1 + 1 + 1) start len
        (s.pc ++ s.fpc ++ (0 : BitVec 4) ++ s.fault ++ (0 : BitVec 3) ++ s.txst.bits
          ++ BitVec.ofBool s.halted ++ BitVec.ofBool s.seeded ++ BitVec.ofBool s.inited) := rfl

/-- Settles O17: a field that lies past the last piece is sought in the pieces before it, one that lies
within the last piece is that piece. -/
theorem statusViewLayout : Obligations.StatusViewLayout := by
  refine ⟨fun s => ?_, rfl⟩
  simp (disch := decide) only [State.status_extract, BitVec.extractLsb'_append_eq_of_le,
    BitVec.extractLsb'_append_eq_of_add_le, -Nat.reduceAdd]
  simp only [Nat.reduceSub, BitVec.extractLsb'_eq_self, true_and, and_true]
  cases s.txst <;> decide

/-- Settles O12: nothing is listed in any space after reset, so every element reads its reset value. -/
theorem resetStateIsComplete : Obligations.ResetStateIsComplete := by
  rintro c s rfl
  have registers (r : Reg) : (State.resetWith c).x r = 0 := by cases r <;> rfl
  exact ⟨rfl, registers, rfl, rfl, rfl, fun _ _ => rfl, rfl, fun _ _ => rfl, rfl, rfl,
    fun _ _ => rfl, fun _ _ => rfl, rfl, rfl, rfl, rfl, rfl⟩

/-- The reset state of an accepted configuration is legal: it has a pixel for `PIDX` to name and a sample
to wait for (R35, R36). -/
theorem State.resetWith_legal {c : Cfg} (hc : c.accepted = true) : (State.resetWith c).Legal := by
  obtain ⟨pixels, _, _, samples, _, _⟩ := (Cfg.accepted_iff c).1 hc
  exact {
    rates := fun _ _ => .inl rfl
    pidx := pixels
    scnt := Nat.zero_le _
    fault := fun h => absurd rfl h
    seeded := fun h => nomatch h
    unseeded := fun _ => Nat.mul_pos two_pos samples
    memory := Memory.wf_reset c.pixels }

/-- Settles O50: the reference configuration is an accepted one. -/
theorem resetStateIsLegal : Obligations.ResetStateIsLegal :=
  ⟨State.resetWith_legal (c := referenceCfg) (by decide), fun _ => State.resetWith_legal⟩

/-! ### What each operation leaves alone -/

/-- Every stored fault code tells a fault from none (R231). -/
theorem Exc.code_ne_zero (e : Exc) : e.code ≠ 0 := by cases e <;> decide

/-- What storing a sample writes: `SEEDBUF` and `SCNT`, and with the last sample also `SEEDED`, the
generator and `pc` (R143). -/
theorem State.acceptSample_writes (s : State) (w : Word) :
    ∃ (g : Gen) (b : Bool) (p : Byte),
      s.acceptSample w = { s with
        mem := { s.mem with seedbuf := writeSample s.mem.seedbuf s.sampleBase w }
        scnt := s.scnt + 1, gen := g, seeded := b, pc := p } ∧
      (b = true → s.seeded = true ∨ s.scnt.toNat + 1 = 2 * s.cfg.samplesPerHalf) ∧
      (b = false → s.scnt.toNat + 1 ≠ 2 * s.cfg.samplesPerHalf) := by
  simp only [State.acceptSample]
  split
  · exact ⟨_, _, _, rfl, fun _ => .inr ‹_›, fun h => nomatch h⟩
  · exact ⟨_, _, _, rfl, .inl, fun _ => ‹_›⟩

/-- A pixel step changes no other pixel and no other colour (R160). -/
theorem State.stepPixel_others {s u : State} {i j : Nat} (hm : s.mem.wf s.cfg.pixels = true)
    (h : s.stepPixel i = .ok u) (hj : j ≠ i) : u.pix j = s.pix j ∧ u.log j = s.log j := by
  obtain ⟨pix, log, _, _⟩ := (Memory.wf_iff _ _).1 hm
  obtain ⟨p, c, g, rfl, _⟩ := State.stepPixel_writes h
  exact ⟨(readElem_writeElem resetPixel pix i j p).trans (if_neg hj),
    (readElem_writeElem Color.black log i j c).trans (if_neg hj)⟩

/-- What an operation that answers `t` from `s` leaves alone, clause by clause (R21 to R31, R60,
R224). A clause holds by computation of an answer that does not write the clause's part of the state, which
is its default proof: the proof of a frame names only the clauses whose part the answer writes. -/
structure Framed (i : Instr) (s t : State) : Prop where
  txAnswers : t.txAnswers = s.txAnswers := by rfl
  registers : ∀ r, r ∉ i.destinations → t.x r = s.x r := by intros; rfl
  clock : i ≠ .clkInit → t.cnt = s.cnt ∧ t.inited = s.inited ∧ t.resOk = s.resOk := by
    intros; exact ⟨rfl, rfl, rfl⟩
  seeding : i ≠ .rngSeed → t.seeded = s.seeded ∧ t.scnt = s.scnt ∧ t.entropy = s.entropy := by
    intros; exact ⟨rfl, rfl, rfl⟩
  generator : i ≠ .rngSeed → i.mayDraw = false → t.gen = s.gen := by intros; rfl
  targets : i ≠ .schRetarget → i ≠ .schRefresh → t.tgtHue = s.tgtHue ∧ t.tgtSat = s.tgtSat := by
    intros; exact ⟨rfl, rfl⟩
  pidx : i ≠ .schStepall → t.pidx = s.pidx := by intros; rfl
  transmission : i ≠ .frmXmit → t.txst = s.txst ∧ t.events = s.events := by
    intros; exact ⟨rfl, rfl⟩
  pixels : s.mem.wf s.cfg.pixels = true → ∀ j, i.pixelStepped s ≠ some j →
    t.pix j = s.pix j ∧ t.log j = s.log j := by intros; exact ⟨rfl, rfl⟩
  seedBytes : s.mem.wf s.cfg.pixels = true → ∀ j,
    (i = .rngSeed → j < s.sampleBase ∨ s.sampleBase + 4 ≤ j) → t.seedByte j = s.seedByte j := by
    intros; rfl
  frame : i ≠ .frmCompose → ∀ j, t.out j = s.out j := by intros; rfl
  faults : (t.fault = s.fault ∧ t.fpc = s.fpc ∧ (i ≠ .seqHalt → t.halted = s.halted)) ∨
    (t.fault ≠ 0 ∧ t.fpc = s.pc ∧ t.halted = true ∧ t.pc = s.pc) := by
    exact .inl ⟨rfl, rfl, fun _ => rfl⟩

/-- Storing a sample keeps its frame (R143, R62). -/
theorem framed_sampled {s : State} (room : s.sampleBase + 3 < 32) (w : Word) :
    Framed .rngSeed s (s.entropyCalled.acceptSample w) := by
  obtain ⟨g, b, p, answer, _, _⟩ := s.entropyCalled.acceptSample_writes w
  rw [answer]
  refine { seeding := fun h => absurd rfl h, generator := fun h => absurd rfl h, seedBytes := ?_ }
  intro hm j hj
  obtain ⟨_, _, _, seedbuf⟩ := (Memory.wf_iff _ _).1 hm
  have outside : ¬ (s.sampleBase ≤ j ∧ j < s.sampleBase + 4) := by
    have := hj rfl
    omega
  exact (readElem_writeSample seedbuf room w j).trans (if_neg outside)

/-- A pixel step followed by any move of `pc` and, in `SCH.STEPALL`, of `PIDX` keeps its frame (R224). -/
theorem framed_stepped {i : Instr} {s u : State} {k : Nat} {p q : Byte} (hu : s.stepPixel k = .ok u)
    (op : i.pixelStepped s = some k) (draws : i.mayDraw = true)
    (hq : i ≠ .schStepall → q = s.pidx) : Framed i s { u with pc := p, pidx := q } := by
  have pixels (hm : s.mem.wf s.cfg.pixels = true) (j : Nat) (hj : i.pixelStepped s ≠ some j) :
      u.pix j = s.pix j ∧ u.log j = s.log j :=
    State.stepPixel_others hm hu fun h => hj (h ▸ op)
  obtain ⟨_, _, _, rfl, _⟩ := State.stepPixel_writes hu
  exact {
    generator := fun _ h => absurd (draws.symm.trans h) (by decide)
    pidx := hq
    pixels := pixels }

/-- Every answer of every operation keeps its frame: each case names the clauses it is an exception to. -/
theorem exec_framed {i : Instr} {s t : State} (h : exec i s = .next t) : Framed i s t := by
  cases exec_answered h with
  | raised e en ro entropy resOk _ answer =>
    subst answer
    exact {
      clock := fun h => ⟨rfl, rfl, resOk h⟩
      seeding := fun h => ⟨rfl, rfl, entropy h⟩
      faults := .inr ⟨e.code_ne_zero, rfl, rfl, rfl⟩ }
  | jumped imm _ answer =>
    subst answer
    exact {}
  | halted op answer =>
    subst answer
    exact { faults := .inl ⟨rfl, rfl, fun h => absurd op h⟩ }
  | started op _ answer =>
    subst answer
    exact { clock := fun h => absurd op h }
  | wrote f g drew kept _ answer =>
    subst answer
    exact {
      registers := kept
      generator := fun _ h => drew.resolve_right fun h' => absurd (h'.symm.trans h) (by decide) }
  | retried op _ answer =>
    subst answer
    exact { seeding := fun h => absurd op h }
  | sampled w op _ room answer =>
    subst op answer
    exact framed_sampled room w
  | stepped imm op _ u pixel answer =>
    subst op answer
    refine framed_stepped pixel rfl rfl fun _ => ?_
    obtain ⟨_, _, _, rfl, _⟩ := State.stepPixel_writes pixel
    rfl
  | composed op answer =>
    subst answer
    exact { frame := fun h => absurd op h }
  | initiated op _ answer =>
    subst op answer
    exact {
      registers := fun r hr => Regs.read_write_other s s.now (by simpa [Instr.destinations] using hr)
      transmission := fun h => absurd rfl h }
  | held _ _ answer =>
    subst answer
    exact {}
  | sent op _ answer =>
    subst answer
    exact { transmission := fun h => absurd op h }
  | targeted hue sat g op answer =>
    subst answer
    have dest : i.destinations = [.x0] := by rcases op with rfl | rfl <;> rfl
    have draws : i.mayDraw = true := by rcases op with rfl | rfl <;> rfl
    exact {
      registers := fun r hr => Regs.read_write_other s s.now (by simpa [dest] using hr)
      generator := fun _ h => absurd (draws.symm.trans h) (by decide)
      targets := fun h1 h2 => absurd op (not_or.2 ⟨h1, h2⟩) }
  | passed _ answer =>
    subst answer
    exact {}
  | polled _ answer =>
    subst answer
    exact {}
  | steppedNext op _ u pixel answer =>
    subst op answer
    split
    · exact framed_stepped (u := u) (p := u.pc + 1) (q := 0) pixel rfl rfl fun h => absurd rfl h
    · exact framed_stepped pixel rfl rfl fun h => absurd rfl h

/-- Settles O46: the frame of every operation, with the configuration and the schedule, which none moves. -/
theorem operationFrame : Obligations.OperationFrame := by
  intro i s t hm h
  have f := exec_framed h
  exact ⟨exec_cfg h, exec_schedule h, f.txAnswers, f.registers, f.clock, f.seeding, f.generator,
    f.targets, f.pidx, f.transmission, f.pixels hm, f.seedBytes hm, f.frame, f.faults⟩

/-! ### The invariant of reachable states -/

/-- A step of a pixel of the file keeps the invariant: the one rate it writes is legal (R36 (a)). -/
theorem State.Legal.stepPixel {s u : State} {i : Nat} (h : s.Legal) (hi : i < s.cfg.pixels)
    (hu : s.stepPixel i = .ok u) : u.Legal := by
  obtain ⟨pix, log, out, seedbuf⟩ := (Memory.wf_iff _ _).1 h.memory
  obtain ⟨p, c, g, rfl, legal⟩ := State.stepPixel_writes hu
  refine { h with rates := fun j hj => ?_, memory := ?_ }
  · show (readElem resetPixel (writeElem resetPixel s.mem.pix i p) j).rateLegal
    rw [readElem_writeElem resetPixel pix]
    split
    · exact legal (h.rates i hi)
    · exact h.rates j hj
  · exact (Memory.wf_iff _ _).2 ⟨canonFrom_writeElem resetPixel pix hi (Nat.zero_le i) p,
      canonFrom_writeElem Color.black log hi (Nat.zero_le i) c, out, seedbuf⟩

/-- Storing a sample in an unseeded source keeps the invariant: the source is seeded with the last sample
and not before (R143, R36 (c), (e)). -/
theorem State.Legal.acceptSample {s : State} (h : s.Legal) (samples : s.cfg.samplesPerHalf ≤ 4)
    (hs : s.seeded = false) (room : s.sampleBase + 3 < 32) (w : Word) :
    (s.acceptSample w).Legal := by
  have below := h.unseeded hs
  have count : (s.scnt + 1).toNat = s.scnt.toNat + 1 := by bv_omega
  obtain ⟨pix, log, out, seedbuf⟩ := (Memory.wf_iff _ _).1 h.memory
  obtain ⟨g, b, p, answer, last, notLast⟩ := s.acceptSample_writes w
  rw [answer]
  exact { h with
    scnt := count ▸ below
    seeded := fun hb => count.trans ((last hb).resolve_left (by simp [hs]))
    unseeded := fun hb => count ▸ lt_of_le_of_ne below (notLast hb)
    memory := (Memory.wf_iff _ _).2 ⟨pix, log, out, canonFrom_writeSample seedbuf room w⟩ }

/-- Taking a fault keeps the invariant: it halts the sequencer (R36 (d), R234). -/
theorem State.Legal.raise {s : State} (h : s.Legal) (e : Exc) : (s.raise e).Legal :=
  { h with fault := fun _ => rfl }

/-- Every operation keeps the invariant. The record of an answer that writes no part the invariant speaks of
meets it by the clauses of the state before. -/
theorem State.Legal.exec {i : Instr} {s t : State} (h : s.Legal) (hc : s.cfg.accepted = true)
    (ht : exec i s = .next t) : t.Legal := by
  obtain ⟨_, pixels, _, _, samples, _⟩ := (Cfg.accepted_iff _).1 hc
  cases exec_answered ht with
  | raised e en ro _ _ _ answer =>
    have asked : ({ s with entropy := en, resOk := ro } : State).Legal := { h with }
    exact answer ▸ asked.raise e
  | halted _ answer => exact answer ▸ { h with fault := fun _ => rfl }
  | sampled w _ before room answer =>
    have called : s.entropyCalled.Legal := { h with }
    exact answer ▸ called.acceptSample samples before room w
  | stepped imm _ range u pixel answer => exact answer ▸ { h.stepPixel range pixel with }
  | composed _ answer => exact answer ▸ { h with memory := s.composeFrame_wf h.memory }
  | steppedNext _ range u pixel answer =>
    have hu := h.stepPixel range pixel
    have cfg : u.cfg = s.cfg := by
      obtain ⟨_, _, _, rfl, _⟩ := State.stepPixel_writes pixel
      rfl
    rw [answer]
    split
    · exact { hu with pidx := Nat.zero_lt_of_lt hu.pidx }
    · rename_i notLast
      have next : (s.pidx + 1).toNat < u.cfg.pixels := by
        rw [cfg]
        bv_omega
      exact { hu with pidx := next }
  | jumped _ _ answer | started _ _ answer | wrote _ _ _ _ _ answer | retried _ _ answer
  | initiated _ _ answer | held _ _ answer | sent _ _ answer | targeted _ _ _ _ answer
  | passed _ answer | polled _ answer => exact answer ▸ { h with }

/-- A SEQ turn keeps the invariant (R200). -/
theorem State.Legal.seqTurn {s t : State} (h : s.Legal) (hc : s.cfg.accepted = true)
    (ht : seqTurn s = .next t) : t.Legal := by
  rcases seqTurn_cases ht with ⟨_, rfl⟩ | ⟨_, _, rfl⟩ | ⟨_, i, _, hi⟩
  · exact h
  · exact h.raise _
  · exact h.exec hc hi

/-- A TICK turn keeps the invariant: it owns `CNT` alone (R121). -/
theorem State.Legal.tick {s : State} (h : s.Legal) : s.tick.Legal := by
  rcases s.tick_cases with ⟨_, answer⟩ | ⟨_, answer⟩
  · exact answer ▸ { h with }
  · rwa [answer]

/-- A TX turn keeps the invariant: it owns `TXST` alone (R188). -/
theorem State.Legal.txStep {s : State} (h : s.Legal) : s.txStep.Legal := by
  rcases s.txStep_cases with ⟨_, answer⟩ | ⟨_, answer⟩
  · exact answer ▸ { h with }
  · rwa [answer]

/-- The schedule is no part of the invariant (R33). -/
theorem State.Legal.turnTaken {s : State} (h : s.Legal) : s.turnTaken.Legal := { h with }

/-- Settles O51: agent by agent, and for the sequencer operation by operation. -/
theorem everyStepKeepsLegal : Obligations.EveryStepKeepsLegal := by
  intro s t h ht
  obtain ⟨hc, ⟨_, hq⟩ | ⟨_, rfl⟩ | ⟨_, rfl⟩ | ⟨_, rfl⟩⟩ := step_cases ht
  · exact h.turnTaken.seqTurn hc hq
  · exact h.turnTaken.tick
  · exact h.turnTaken.txStep
  · exact { State.resetWith_legal hc with }

/-- From a legal state every operation answers a next state: the sample and the pixel that `RNG.SEED` and
`SCH.STEPALL` ask for exist (R36 (b), (c), R64). -/
theorem State.Legal.exec_next {s : State} (h : s.Legal) (hc : s.cfg.accepted = true) (i : Instr) :
    ∃ t, Machine.exec i s = .next t := by
  obtain ⟨_, _, _, low, high, _⟩ := (Cfg.accepted_iff _).1 hc
  cases i with
  | rngSeed =>
    simp only [Machine.exec, execRngSeed]
    split
    · exact ⟨_, rfl⟩
    · rename_i hs
      rw [if_pos (sampleBase_lt low high (h.unseeded (by simpa using hs)))]
      exact ⟨_, rfl⟩
  | schStepall =>
    rw [Machine.exec, execSchStepall, if_pos h.pidx]
    exact ⟨_, rfl⟩
  | _ => exact ⟨_, rfl⟩

/-- Settles O52: only an operation could stop the model. -/
theorem legalStatesNeverStop : Obligations.LegalStatesNeverStop := by
  intro s h hc
  simp only [step, if_pos hc]
  cases s.turn with
  | seq =>
    simp only [seqTurn]
    split
    · exact ⟨_, rfl⟩
    · split
      · exact ⟨_, rfl⟩
      · exact h.turnTaken.exec_next hc _
  | tick | tx | hostReset => exact ⟨_, rfl⟩

/-! ### A frame in flight -/

/-- An initiating step puts a frame in flight: what it hands over is what `OUT` holds, at the time it leaves
in `x1`, and it stays at the word it was fetched from (R187, R189). -/
theorem State.initiate_inFlight {s : State} (running : s.halted = false)
    (atXmit : decode s.fetch = .ok .frmXmit) : s.initiate.InFlight where
  running := running
  atXmit := atXmit
  snapshot := by
    rw [State.initiate_events, List.getLast?_concat]
    rfl
  started := by
    rw [State.initiate_events, List.getLast?_concat]
    rfl

/-- A step of `FRM.XMIT` that leaves a transmission in flight initiated it or is held by it (R187). -/
theorem frmXmit_busy_cases {s t : State} (ht : exec .frmXmit s = .next t) (busy : t.txst = .busy) :
    t = s.initiate ∨ (s.txst = .busy ∧ t = s) := by
  simp only [exec, execFrmXmit, Host.Outcome.next.injEq] at ht
  split at ht
  · exact .inl ht.symm
  · exact .inr ⟨‹_›, ht.symm⟩
  · subst ht
    cases busy
  · rename_i failed
    subst ht
    cases failed.symm.trans busy

/-- A turn of the sequencer leaves a frame in flight where it is, and where none is in flight only
`FRM.XMIT` puts one there (R32 (b), R187). -/
theorem seqTurn_inFlight {s t : State} (h : s.txst = .busy → s.InFlight) (ht : seqTurn s = .next t)
    (busy : t.txst = .busy) : t.InFlight := by
  rcases seqTurn_cases ht with ⟨_, rfl⟩ | ⟨_, ⟨e, illegal⟩, rfl⟩ | ⟨running, i, hi, hexec⟩
  · exact h busy
  · exact nomatch illegal.symm.trans (h busy).atXmit
  · by_cases op : i = .frmXmit
    · subst op
      rcases frmXmit_busy_cases hexec busy with rfl | ⟨unanswered, rfl⟩
      · exact State.initiate_inFlight running hi
      · exact h unanswered
    · have unsent : s.txst = .busy := (exec_framed hexec).transmission op |>.1 ▸ busy
      have atXmit := hi.symm.trans (h unsent).atXmit
      exact absurd (Except.ok.inj atXmit) op

/-- Settles O53: the sequencer holds the frame, the ticks do not touch it, and the transmitter and the host
end the transmission. -/
theorem frameInFlightIsNotDisturbed : Obligations.FrameInFlightIsNotDisturbed := by
  intro s t h ht busy
  have taken (hb : s.turnTaken.txst = .busy) : s.turnTaken.InFlight := { h hb with }
  obtain ⟨_, ⟨_, hq⟩ | ⟨_, rfl⟩ | ⟨_, rfl⟩ | ⟨_, rfl⟩⟩ := step_cases ht
  · exact seqTurn_inFlight taken hq busy
  · rcases s.turnTaken.tick_cases with ⟨_, answer⟩ | ⟨_, answer⟩
    · rw [answer] at busy ⊢
      exact { taken busy with }
    · rw [answer] at busy ⊢
      exact taken busy
  · rcases s.turnTaken.txStep_cases with ⟨_, answer⟩ | ⟨idle, answer⟩
    · rw [answer] at busy
      cases ha : s.turnTaken.txAnswer <;> simp [ha] at busy
    · rw [answer] at busy
      exact absurd busy idle
  · exact nomatch busy

end Sys2Proof.Machine

/-! The element-indexed memory (20_memory): the configured words, which no step writes, and the bytes of a
frame. -/

namespace Sys2Proof.Machine

/-! ### The configuration -/

/-- A SEQ turn keeps the configuration: only an operation could write it (R200). -/
theorem seqTurn_cfg {s t : State} (h : seqTurn s = .next t) : t.cfg = s.cfg := by
  rcases seqTurn_cases h with ⟨_, rfl⟩ | ⟨_, _, rfl⟩ | ⟨_, _, _, hexec⟩
  · rfl
  · exact State.raise_cfg s _
  · exact exec_cfg hexec

/-- A TICK turn keeps the configuration: it owns `CNT` alone (R121). -/
@[simp] theorem State.tick_cfg (s : State) : s.tick.cfg = s.cfg := by
  rcases s.tick_cases with ⟨_, answer⟩ | ⟨_, answer⟩ <;> rw [answer]

/-- A TX turn keeps the configuration: it owns `TXST` alone (R188). -/
@[simp] theorem State.txStep_cfg (s : State) : s.txStep.cfg = s.cfg := by
  rcases s.txStep_cases with ⟨_, answer⟩ | ⟨_, answer⟩ <;> rw [answer]

/-- Settles O15: agent by agent; the host's reset too keeps the configuration (R260). -/
theorem noStepChangesTheConfiguration : Obligations.NoStepChangesTheConfiguration := by
  intro s t h
  obtain ⟨_, ⟨_, hseq⟩ | ⟨_, rfl⟩ | ⟨_, rfl⟩ | ⟨_, rfl⟩⟩ := step_cases h
  · exact (seqTurn_cfg hseq).trans s.turnTaken_cfg
  · exact s.turnTaken.tick_cfg.trans s.turnTaken_cfg
  · exact s.turnTaken.txStep_cfg.trans s.turnTaken_cfg
  · exact s.turnTaken.hostReset_cfg.trans s.turnTaken_cfg

/-! ### The bytes of a frame -/

section Blocks
variable {α : Type} {f : Nat → List α} {k : Nat}

/-- Blocks of one length laid end to end have that length times their number. -/
theorem length_flatMap_range (hf : ∀ i, (f i).length = k) (n : Nat) :
    ((List.range n).flatMap f).length = k * n := by
  simp [List.length_flatMap, hf, Nat.mul_comm]

/-- In blocks of length `k` laid end to end, place `k * i + j` is place `j` of block `i`. -/
theorem getElem?_flatMap_range (hf : ∀ i, (f i).length = k) {n i j : Nat} (hi : i < n) (hj : j < k) :
    ((List.range n).flatMap f)[k * i + j]? = (f i)[j]? := by
  induction n with
  | zero => omega
  | succ n ih =>
    have before := length_flatMap_range hf n
    rw [List.range_succ, List.flatMap_append, List.flatMap_singleton]
    obtain hlt | rfl := Nat.lt_succ_iff_lt_or_eq.1 hi
    · have inside : k * i + j < k * n :=
        calc k * i + j < k * i + k := Nat.add_lt_add_left hj _
          _ = k * (i + 1) := (Nat.mul_succ k i).symm
          _ ≤ k * n := Nat.mul_le_mul_left k hlt
      rw [List.getElem?_append_left (before ▸ inside)]
      exact ih hlt
    · rw [List.getElem?_append_right (before ▸ Nat.le_add_right _ _), before, Nat.add_sub_cancel_left]

end Blocks

/-- Settles O37: the frame is laid out in blocks of three bytes, one for each pixel in order. -/
theorem frameIsPixelMajor : Obligations.FrameIsPixelMajor := by
  intro s
  have three (i : Nat) : [(s.out i).c0, (s.out i).c1, (s.out i).c2].length = 3 := rfl
  have byte {i j : Nat} (hi : i < s.cfg.pixels) (hj : j < 3) :
      s.frameBytes[3 * i + j]? = [(s.out i).c0, (s.out i).c1, (s.out i).c2][j]? :=
    getElem?_flatMap_range three hi hj
  exact ⟨length_flatMap_range three s.cfg.pixels, fun i hi =>
    ⟨byte hi (j := 0) (by decide), byte hi (j := 1) (by decide), byte hi (j := 2) (by decide)⟩⟩

end Sys2Proof.Machine

/-! The encoding (30_encoding): the opcode map read row by row, the five formats in both directions, and the
words that are no operation. -/

namespace Sys2Proof

/-! ### The opcode map: at most one row matches a word -/

/-- Two rows that match one word agree on the bits both masks cover (R93). -/
theorem patterns_agree_of_match {n : Nat} {w m₁ p₁ m₂ p₂ : BitVec n} (h₁ : w &&& m₁ = p₁)
    (h₂ : w &&& m₂ = p₂) : p₁ &&& m₂ = p₂ &&& m₁ := by
  rw [← h₁, ← h₂, BitVec.and_assoc, BitVec.and_assoc, BitVec.and_comm m₁]

/-- Each pair of rows differs in a bit both masks cover (R93). -/
theorem opcodeRows_pairwise_differ :
    opcodeRows.Pairwise fun r q => r.pattern &&& q.mask ≠ q.pattern &&& r.mask := by decide

/-- The match sets of two places of the opcode map are disjoint (R93). -/
theorem opcodeRows_index_unique {w : OpWord} {a b : Nat} {r q : OpcodeRow}
    (ha : opcodeRows[a]? = some r) (hb : opcodeRows[b]? = some q)
    (hr : w &&& r.mask = r.pattern) (hq : w &&& q.mask = q.pattern) : a = b := by
  obtain ⟨hal, rfl⟩ := List.getElem?_eq_some_iff.1 ha
  obtain ⟨hbl, rfl⟩ := List.getElem?_eq_some_iff.1 hb
  have differ := List.pairwise_iff_getElem.1 opcodeRows_pairwise_differ
  rcases lt_trichotomy a b with hlt | heq | hgt
  · exact absurd (patterns_agree_of_match hr hq) (differ a b hal hbl hlt)
  · exact heq
  · exact absurd (patterns_agree_of_match hq hr) (differ b a hbl hal hgt)

/-- The row a word matches is unique (R93). -/
theorem opcodeRow_unique {w : OpWord} {r q : OpcodeRow} (hr : r ∈ opcodeRows) (hq : q ∈ opcodeRows)
    (hrw : w &&& r.mask = r.pattern) (hqw : w &&& q.mask = q.pattern) : r = q := by
  obtain ⟨a, ha⟩ := List.mem_iff_getElem?.1 hr
  obtain ⟨b, hb⟩ := List.mem_iff_getElem?.1 hq
  obtain rfl := opcodeRows_index_unique ha hb hrw hqw
  exact Option.some.inj (ha.symm.trans hb)

/-- The test of a row, as an equation (R93). -/
theorem OpcodeRow.admits_iff (r : OpcodeRow) (w : OpWord) :
    r.admits w = true ↔ w &&& r.mask = r.pattern := beq_iff_eq

/-- What the decoder answers: an operation of a row the word matches, or that there is no such row. -/
theorem decode_cases (w : OpWord) :
    (∃ r ∈ opcodeRows, w &&& r.mask = r.pattern ∧ decode w = .ok (r.build w)) ∨
    ((∀ r ∈ opcodeRows, w &&& r.mask ≠ r.pattern) ∧ decode w = .error (.illegalOperation w)) := by
  rw [decode]
  cases hf : opcodeRows.find? (fun r => r.admits w) with
  | some r =>
    have admits : r.admits w = true := List.find?_some (p := (OpcodeRow.admits · w)) hf
    exact .inl ⟨r, List.mem_of_find?_eq_some hf, (r.admits_iff w).1 admits, rfl⟩
  | none =>
    exact .inr ⟨fun r hr h => List.find?_eq_none.1 hf r hr ((r.admits_iff w).2 h), rfl⟩

/-- A word decodes to the operation of the row it matches (R93). -/
theorem decode_of_match {w : OpWord} {r : OpcodeRow} (hr : r ∈ opcodeRows)
    (h : w &&& r.mask = r.pattern) : decode w = .ok (r.build w) := by
  rcases decode_cases w with ⟨q, hq, hqw, answer⟩ | ⟨unmatched, _⟩
  · rw [answer, opcodeRow_unique hq hr hqw h]
  · exact absurd h (unmatched r hr)

/-- A word that matches no row is illegal (R93, R96). -/
theorem decode_of_no_match {w : OpWord} (h : ∀ r ∈ opcodeRows, w &&& r.mask ≠ r.pattern) :
    decode w = .error (.illegalOperation w) := by
  rcases decode_cases w with ⟨r, hr, hrw, _⟩ | ⟨_, answer⟩
  · exact absurd hrw (h r hr)
  · exact answer

/-- What decodes is what a row builds (R93). -/
theorem decode_ok {w : OpWord} {i : Instr} (h : decode w = .ok i) :
    ∃ r ∈ opcodeRows, w &&& r.mask = r.pattern ∧ r.build w = i := by
  rcases decode_cases w with ⟨r, hr, hrw, answer⟩ | ⟨_, answer⟩
  · exact ⟨r, hr, hrw, Except.ok.inj (answer.symm.trans h)⟩
  · exact nomatch answer.symm.trans h

/-- Settles O3: the rows differ pairwise, so the row the search finds is the one that matches. -/
theorem decoderFollowsTheUniqueRow : Obligations.DecoderFollowsTheUniqueRow :=
  fun _ => ⟨fun _ _ _ _ => opcodeRows_index_unique, fun _ => decode_of_match, decode_of_no_match⟩

/-! ### The formats: an operand read back from the word that holds it (R91) -/

@[simp] theorem Reg.ofBits_bits (r : Reg) : Reg.ofBits r.bits = r := by cases r <;> rfl

@[simp] theorem Reg.bits_ofBits (b : BitVec 2) : (Reg.ofBits b).bits = b := by
  revert b
  decide

/-- A pair register is even: its number's low bit is 0 (R91, format DP). -/
theorem Reg.isEven_ofBits (b : BitVec 2) : (Reg.ofBits b).isEven = !b.getLsbD 0 := by
  revert b
  decide

/-- Format I: the immediate is read back. -/
theorem argField_encodeI {base : OpWord} (h : argField base = 0) (imm : Byte) :
    argField (encodeI base imm) = imm := by
  have own : argField (imm.zeroExtend 16) = imm := by
    apply BitVec.eq_of_toNat_eq
    simp [argField]
    omega
  rw [argField, encodeI, BitVec.extractLsb'_or]
  exact (congrArg₂ (· ||| ·) h own).trans BitVec.zero_or

/-- Format D: the destination is read back. -/
theorem rdField_encodeD {base : OpWord} (h : base.extractLsb' 4 2 = 0#2) (rd : Reg) :
    rdField (encodeD base rd) = rd := by
  have own : (rd.bits.zeroExtend 16 <<< 4).extractLsb' 4 2 = rd.bits := by cases rd <;> rfl
  rw [rdField, encodeD, BitVec.extractLsb'_or, h, own, BitVec.zero_or, Reg.ofBits_bits]

/-- Format DS: the destination is read back. -/
theorem rdField_encodeDS {base : OpWord} (h : base.extractLsb' 4 2 = 0#2) (rd rs : Reg) :
    rdField (encodeDS base rd rs) = rd := by
  have other : (rs.bits.zeroExtend 16).extractLsb' 4 2 = 0#2 := by cases rs <;> rfl
  rw [rdField, encodeDS, BitVec.extractLsb'_or, other, BitVec.or_zero]
  exact rdField_encodeD h rd

/-- Format DS: the source is read back. -/
theorem rsField_encodeDS {base : OpWord} (h : base.extractLsb' 0 2 = 0#2) (rd rs : Reg) :
    rsField (encodeDS base rd rs) = rs := by
  have other : (rd.bits.zeroExtend 16 <<< 4).extractLsb' 0 2 = 0#2 := by cases rd <;> rfl
  have own : (rs.bits.zeroExtend 16).extractLsb' 0 2 = rs.bits := by cases rs <;> rfl
  rw [rsField, encodeDS, encodeD, BitVec.extractLsb'_or, BitVec.extractLsb'_or, h, other, own,
    BitVec.or_zero, BitVec.zero_or, Reg.ofBits_bits]

/-- No two rows have one mnemonic (R95). -/
theorem opcodeRows_mnemonics_nodup : (opcodeRows.map OpcodeRow.mnemonic).Nodup := by decide

/-- A well-formed operation decodes back from its word if the row of its mnemonic rebuilds it from there:
that row matches the word. -/
theorem decode_encode_of_row {i : Instr} (word : Laws.RowMatch.Statement i)
    (wf : i.wellFormed = true) (n : Nat) {r : OpcodeRow} (hr : opcodeRows[n]? = some r)
    (name : r.mnemonic = i.mnemonic) (build : r.build (encode i) = i) :
    decode (encode i) = .ok i := by
  obtain ⟨q, hq, qname, admits⟩ := word
  obtain rfl : q = r := List.inj_on_of_nodup_map opcodeRows_mnemonics_nodup hq
    (List.mem_of_getElem? hr) (qname.trans name.symm)
  rw [decode_of_match hq ((q.admits_iff _).1 (admits wf)), build]

/-- Settles O1: each operation's word matches the operation's row, which reads the operands back. -/
theorem decodeOfEncode : Obligations.DecodeOfEncode := by
  intro i wf
  cases i with
  | seqJmp imm =>
    exact decode_encode_of_row (Laws.RowMatch.seqJmp imm) wf 0 rfl rfl
      (congrArg Instr.seqJmp (argField_encodeI rfl imm))
  | seqHalt => exact decode_encode_of_row Laws.RowMatch.seqHalt wf 1 rfl rfl rfl
  | clkInit => exact decode_encode_of_row Laws.RowMatch.clkInit wf 2 rfl rfl rfl
  | clkNow rd =>
    exact decode_encode_of_row (Laws.RowMatch.clkNow rd) wf 3 rfl rfl
      (congrArg Instr.clkNow (rdField_encodeD rfl rd))
  | clkElapsed rd rs =>
    exact decode_encode_of_row (Laws.RowMatch.clkElapsed rd rs) wf 4 rfl rfl
      (congrArg₂ Instr.clkElapsed (rdField_encodeDS rfl rd rs) (rsField_encodeDS rfl rd rs))
  | clkMicros rd rs =>
    exact decode_encode_of_row (Laws.RowMatch.clkMicros rd rs) wf 5 rfl rfl
      (congrArg₂ Instr.clkMicros (rdField_encodeDS rfl rd rs) (rsField_encodeDS rfl rd rs))
  | clkMillis rd rs =>
    exact decode_encode_of_row (Laws.RowMatch.clkMillis rd rs) wf 6 rfl rfl
      (congrArg₂ Instr.clkMillis (rdField_encodeDS rfl rd rs) (rsField_encodeDS rfl rd rs))
  | rngSeed => exact decode_encode_of_row Laws.RowMatch.rngSeed wf 7 rfl rfl rfl
  | rngU32 rd =>
    exact decode_encode_of_row (Laws.RowMatch.rngU32 rd) wf 8 rfl rfl
      (congrArg Instr.rngU32 (rdField_encodeD rfl rd))
  | rngU64 rd =>
    exact decode_encode_of_row (Laws.RowMatch.rngU64 rd) wf 9 rfl rfl
      (congrArg Instr.rngU64 (rdField_encodeD rfl rd))
  | pixStep imm =>
    exact decode_encode_of_row (Laws.RowMatch.pixStep imm) wf 10 rfl rfl
      (congrArg Instr.pixStep (argField_encodeI rfl imm))
  | frmCompose => exact decode_encode_of_row Laws.RowMatch.frmCompose wf 11 rfl rfl rfl
  | frmXmit => exact decode_encode_of_row Laws.RowMatch.frmXmit wf 12 rfl rfl rfl
  | schRetarget => exact decode_encode_of_row Laws.RowMatch.schRetarget wf 13 rfl rfl rfl
  | schRefresh => exact decode_encode_of_row Laws.RowMatch.schRefresh wf 14 rfl rfl rfl
  | schStepall => exact decode_encode_of_row Laws.RowMatch.schStepall wf 15 rfl rfl rfl
  | schWait => exact decode_encode_of_row Laws.RowMatch.schWait wf 16 rfl rfl rfl

/-! ### The formats: a word put together from the operands read from it (R91) -/

/-- A word is its fixed bits and its operand bits. -/
theorem pattern_or_operands {n : Nat} {w m p : BitVec n} (h : w &&& m = p) (k : BitVec n)
    (all : m ||| k = BitVec.allOnes n) : p ||| (w &&& k) = w := by
  rw [← h, ← BitVec.and_or_distrib_left, all, BitVec.and_allOnes]

/-- The eight bits of the immediate in place (R92). -/
theorem argField_zeroExtend (w : OpWord) : (argField w).zeroExtend 16 = w &&& 0x00FF := by
  ext k hk
  interval_cases k <;> simp [argField]

/-- The two bits of `rd` in place (R92). -/
theorem rdField_bits_shift (w : OpWord) : (rdField w).bits.zeroExtend 16 <<< 4 = w &&& 0x0030 := by
  rw [rdField, Reg.bits_ofBits]
  ext k hk
  interval_cases k <;> simp

/-- The two bits of `rs` in place (R92). -/
theorem rsField_bits_zeroExtend (w : OpWord) : (rsField w).bits.zeroExtend 16 = w &&& 0x0003 := by
  rw [rsField, Reg.bits_ofBits]
  ext k hk
  interval_cases k <;> simp

/-- Format I: a word is put together from its immediate. -/
theorem encodeI_argField {w base : OpWord} (h : w &&& 0xFF00 = base) :
    encodeI base (argField w) = w := by
  rw [encodeI, argField_zeroExtend, pattern_or_operands h _ rfl]

/-- Formats D and DP: a word is put together from its destination. -/
theorem encodeD_rdField {w mask base : OpWord} (h : w &&& mask = base)
    (all : mask ||| 0x0030 = BitVec.allOnes 16) : encodeD base (rdField w) = w := by
  rw [encodeD, rdField_bits_shift, pattern_or_operands h _ all]

/-- Format DS: a word is put together from its two registers. -/
theorem encodeDS_fields {w base : OpWord} (h : w &&& 0xFFCC = base) :
    encodeDS base (rdField w) (rsField w) = w := by
  rw [encodeDS, encodeD, rdField_bits_shift, rsField_bits_zeroExtend, BitVec.or_assoc,
    ← BitVec.and_or_distrib_left, pattern_or_operands h _ rfl]

/-- Format DP: with bit 4 clear the destination is even (R91). -/
theorem rdField_isEven {w : OpWord} (h : w &&& 0xFFDF = 0x2200) : (rdField w).isEven = true := by
  have bit : w.getLsbD 4 = false := by simpa using congrArg (BitVec.getLsbD · 4) h
  rw [rdField, Reg.isEven_ofBits, BitVec.getLsbD_extractLsb', bit]
  rfl

/-- Every row builds a well-formed operation whose word is the one it was built from: row by row, by the
row's format (R91). -/
theorem encode_build (w : OpWord) : ∀ r ∈ opcodeRows, w &&& r.mask = r.pattern →
    encode (r.build w) = w ∧ (r.build w).wellFormed = true := by
  have whole {p : OpWord} (hz : w &&& 0xFFFF = p) : p = w := hz.symm.trans BitVec.and_allOnes
  exact List.forall_iff_forall_mem.1
    ⟨fun h => ⟨encodeI_argField h, rfl⟩,                      -- SEQ.JMP
      fun h => ⟨whole h, rfl⟩,                                -- SEQ.HALT
      fun h => ⟨whole h, rfl⟩,                                -- CLK.INIT
      fun h => ⟨encodeD_rdField h rfl, rfl⟩,                  -- CLK.NOW
      fun h => ⟨encodeDS_fields h, rfl⟩,                      -- CLK.ELAPSED
      fun h => ⟨encodeDS_fields h, rfl⟩,                      -- CLK.MICROS
      fun h => ⟨encodeDS_fields h, rfl⟩,                      -- CLK.MILLIS
      fun h => ⟨whole h, rfl⟩,                                -- RNG.SEED
      fun h => ⟨encodeD_rdField h rfl, rfl⟩,                  -- RNG.U32
      fun h => ⟨encodeD_rdField h rfl, rdField_isEven h⟩,     -- RNG.U64
      fun h => ⟨encodeI_argField h, rfl⟩,                     -- PIX.STEP
      fun h => ⟨whole h, rfl⟩,                                -- FRM.COMPOSE
      fun h => ⟨whole h, rfl⟩,                                -- FRM.XMIT
      fun h => ⟨whole h, rfl⟩,                                -- SCH.RETARGET
      fun h => ⟨whole h, rfl⟩,                                -- SCH.REFRESH
      fun h => ⟨whole h, rfl⟩,                                -- SCH.STEPALL
      fun h => ⟨whole h, rfl⟩⟩                                -- SCH.WAIT

/-- Settles O2: a word that decodes matches a row, and every row builds what gives the word back. -/
theorem encodeOfDecode : Obligations.EncodeOfDecode := by
  intro w i h
  obtain ⟨r, hr, hw, rfl⟩ := decode_ok h
  exact encode_build w r hr hw

/-! ### The words that match no row (R96) -/

/-- A word that matches a pattern agrees with it on every bit the mask covers. -/
theorem and_eq_of_covered {n : Nat} {w m p k : BitVec n} (h : w &&& m = p) (hk : m &&& k = k) :
    w &&& k = p &&& k := by
  rw [← h, BitVec.and_assoc, hk]

/-- A matching word has the unit and the function of its row. -/
theorem unit_fn_of_match {w : OpWord} {r : OpcodeRow} (hr : r ∈ opcodeRows)
    (h : w &&& r.mask = r.pattern) :
    unitField w = unitField r.pattern ∧ fnField w = fnField r.pattern := by
  have covers : ∀ r ∈ opcodeRows, unitField r.mask = BitVec.allOnes 4 ∧
      fnField r.mask = BitVec.allOnes 4 := by decide
  obtain ⟨unit, fn⟩ := covers r hr
  constructor
  · rw [← h, unitField, unitField, BitVec.extractLsb'_and]
    exact ((congrArg (unitField w &&& ·) unit).trans BitVec.and_allOnes).symm
  · rw [← h, fnField, fnField, BitVec.extractLsb'_and]
    exact ((congrArg (fnField w &&& ·) fn).trans BitVec.and_allOnes).symm

/-- A unit and a function that R96 lists as unused. -/
abbrev unusedFunction (unit fn : BitVec 4) : Prop :=
  6 ≤ unit.toNat ∨
  (unit = 0 ∧ (fn = 0 ∨ 3 ≤ fn.toNat)) ∨
  (unit = 1 ∧ 5 ≤ fn.toNat) ∨
  (unit = 2 ∧ 3 ≤ fn.toNat) ∨
  (unit = 3 ∧ 1 ≤ fn.toNat) ∨
  (unit = 4 ∧ 2 ≤ fn.toNat) ∨
  (unit = 5 ∧ 4 ≤ fn.toNat)

/-- A word of an unused function matches no row. -/
theorem no_match_of_unusedFunction {w : OpWord} (unused : unusedFunction (unitField w) (fnField w)) :
    ∀ r ∈ opcodeRows, w &&& r.mask ≠ r.pattern := by
  have used : ∀ r ∈ opcodeRows, ¬ unusedFunction (unitField r.pattern) (fnField r.pattern) := by
    decide
  intro r hr h
  obtain ⟨unit, fn⟩ := unit_fn_of_match hr h
  rw [unit, fn] at unused
  exact used r hr unused

/-- A word that has a set bit among those every row of its group holds at 0 matches no row. -/
theorem no_match_of_zeroBit {w group op zero : OpWord}
    (rows : ∀ r ∈ opcodeRows, r.mask &&& group = group ∧
      (r.pattern &&& group = op → r.mask &&& zero = zero ∧ r.pattern &&& zero = 0))
    (here : w &&& group = op) (bit : w &&& zero ≠ 0) :
    ∀ r ∈ opcodeRows, w &&& r.mask ≠ r.pattern := by
  intro r hr h
  obtain ⟨covers, holds⟩ := rows r hr
  obtain ⟨fixed, clear⟩ := holds ((and_eq_of_covered h covers).symm.trans here)
  exact bit ((and_eq_of_covered h fixed).trans clear)

end Sys2Proof

namespace Sys2Proof.Machine

/-- In an accepted configuration a turn of the sequencer is `seqTurn`, the turn counted (R20). -/
theorem step_of_seq_turn {s : State} (hc : s.cfg.accepted = true) (ht : s.turn = .seq) :
    step s = seqTurn s.turnTaken := by
  rw [step, if_pos hc, ht]

/-- A running sequencer at a word that does not decode takes `IllegalOperation` (R200). -/
theorem seqTurn_of_illegal {s : State} (running : s.halted = false) {e : DecodeError}
    (h : decode s.fetch = .error e) : seqTurn s = .next (s.raise .illegalOperation) := by
  simp [seqTurn, running, h]

/-- Settles O5: the listed words miss the fixed bits of every row; a word without a row does not decode, and
the turn is the fault of R234. -/
theorem illegalWordsRaiseIllegalOperation : Obligations.IllegalWordsRaiseIllegalOperation := by
  constructor
  · intro w listed
    rcases listed with u | u | u | u | u | u | u | ⟨formatZ, bit⟩ | ⟨formatD, bit⟩ | ⟨formatDS, bit⟩
      | ⟨formatDP, bit⟩
    · exact no_match_of_unusedFunction (.inl u)
    · exact no_match_of_unusedFunction (.inr (.inl u))
    · exact no_match_of_unusedFunction (.inr (.inr (.inl u)))
    · exact no_match_of_unusedFunction (.inr (.inr (.inr (.inl u))))
    · exact no_match_of_unusedFunction (.inr (.inr (.inr (.inr (.inl u)))))
    · exact no_match_of_unusedFunction (.inr (.inr (.inr (.inr (.inr (.inl u))))))
    · exact no_match_of_unusedFunction (.inr (.inr (.inr (.inr (.inr (.inr u))))))
    · rcases formatZ with op | op | op | op | op <;> exact no_match_of_zeroBit (by decide) op bit
    · rcases formatD with op | op <;> exact no_match_of_zeroBit (by decide) op bit
    · rcases formatDS with op | op | op <;> exact no_match_of_zeroBit (by decide) op bit
    · exact no_match_of_zeroBit (by decide) formatDP bit
  · intro s hc ht running unmatched
    have illegal : decode s.turnTaken.fetch = .error (.illegalOperation s.fetch) :=
      decode_of_no_match unmatched
    rw [step_of_seq_turn hc ht, seqTurn_of_illegal (s.turnTaken_halted.trans running) illegal]
    rfl

end Sys2Proof.Machine

namespace Sys2Proof

/-! ### The patterns of the opcode map, field by field (R91, R95) -/

/-- Format I laid out: the opcode byte, then the immediate. -/
theorem encodeI_eq_append (op imm : Byte) : encodeI (op ++ (0 : Byte)) imm = op ++ imm := by
  have wide : imm.zeroExtend 16 = (0 : Byte) ++ imm := BitVec.setWidth_eq_append (by decide)
  rw [encodeI, wide]
  exact BitVec.or_append.trans (congrArg₂ (· ++ ·) BitVec.or_zero BitVec.zero_or)

/-- Format D laid out: `rd` at bits 5:4. -/
theorem encodeD_eq_append : ∀ op ∈ ([0x11, 0x21] : List Byte), ∀ d : BitVec 2,
    encodeD (op ++ (0 : Byte)) (Reg.ofBits d) = op ++ (0 : BitVec 2) ++ d ++ (0 : BitVec 4) := by
  decide

/-- Format DS laid out: `rd` at bits 5:4, `rs` at bits 1:0. -/
theorem encodeDS_eq_append : ∀ op ∈ ([0x12, 0x13, 0x14] : List Byte), ∀ d s : BitVec 2,
    encodeDS (op ++ (0 : Byte)) (Reg.ofBits d) (Reg.ofBits s) =
      op ++ (0 : BitVec 2) ++ d ++ (0 : BitVec 2) ++ s := by
  decide

/-- Format DP laid out: the pair's bit at bit 5, and bit 4 clear. -/
theorem encodeDP_eq_append : ∀ d : BitVec 1,
    encodeD 0x2200 (Reg.ofBits (d ++ (0 : BitVec 1))) =
      (0x22 : Byte) ++ (0 : BitVec 2) ++ d ++ (0 : BitVec 5) := by
  decide

/-- A word laid out as the word of a well-formed operation decodes to it. -/
theorem decode_of_layout {w : OpWord} {i : Instr} (layout : encode i = w)
    (wf : i.wellFormed = true) : decode w = .ok i := layout ▸ decodeOfEncode i wf

/-- Settles O4: each pattern is the layout of an operation's word. -/
theorem patternsOfTheOpcodeMap : Obligations.PatternsOfTheOpcodeMap := by
  have even (d : BitVec 1) : (Reg.ofBits (d ++ (0 : BitVec 1))).isEven = true := by
    revert d
    decide
  exact
    ⟨fun imm => decode_of_layout (encodeI_eq_append 0x01 imm) rfl,
      decode_of_layout rfl rfl,
      decode_of_layout rfl rfl,
      fun d => decode_of_layout (encodeD_eq_append 0x11 (by decide) d) rfl,
      fun d s => decode_of_layout (encodeDS_eq_append 0x12 (by decide) d s) rfl,
      fun d s => decode_of_layout (encodeDS_eq_append 0x13 (by decide) d s) rfl,
      fun d s => decode_of_layout (encodeDS_eq_append 0x14 (by decide) d s) rfl,
      decode_of_layout rfl rfl,
      fun d => decode_of_layout (encodeD_eq_append 0x21 (by decide) d) rfl,
      fun d => decode_of_layout (encodeDP_eq_append d) (even d),
      fun imm => decode_of_layout (encodeI_eq_append 0x30 imm) rfl,
      decode_of_layout rfl rfl,
      decode_of_layout rfl rfl,
      decode_of_layout rfl rfl,
      decode_of_layout rfl rfl,
      decode_of_layout rfl rfl,
      decode_of_layout rfl rfl⟩

/-! ### Words as the opcode table numbers them -/

/-- The bits of an operation's word read as that operation. -/
theorem decodeTableWord_of_encode {i : Instr} (wf : i.wellFormed = true) {n : Nat}
    (word : (encode i).toNat = n) : decodeTableWord 16 n = some i := by
  subst word
  rw [decodeTableWord, Nat.mod_eq_of_lt (encode i).isLt, if_pos (encode i).isLt,
    BitVec.ofNat_toNat, BitVec.setWidth_eq, decodeOfEncode i wf]

/-- The bits of a word that matches no row read as nothing. -/
theorem decodeTableWord_of_no_match {w : OpWord} (h : ∀ r ∈ opcodeRows, w &&& r.mask ≠ r.pattern)
    {n : Nat} (word : w.toNat = n) : decodeTableWord 16 n = none := by
  subst word
  rw [decodeTableWord, Nat.mod_eq_of_lt w.isLt, if_pos w.isLt, BitVec.ofNat_toNat,
    BitVec.setWidth_eq, decode_of_no_match h]

/-- Settles O6: six words of operations; an odd pair, and the unprogrammed word. -/
theorem sampleWordsDecode : Obligations.SampleWordsDecode :=
  ⟨decodeTableWord_of_encode (i := .seqJmp 4) rfl rfl,
    decodeTableWord_of_encode (i := .clkElapsed .x3 .x2) rfl rfl,
    decodeTableWord_of_encode (i := .rngU64 .x2) rfl rfl,
    decodeTableWord_of_encode (i := .pixStep 99) rfl rfl,
    decodeTableWord_of_encode (i := .frmXmit) rfl rfl,
    decodeTableWord_of_encode (i := .schWait) rfl rfl,
    decodeTableWord_of_no_match (w := 0x2210)
      (no_match_of_zeroBit (group := 0xFF00) (op := 0x2200) (zero := 0x00DF) (by decide) rfl
        (by decide)) rfl,
    decodeTableWord_of_no_match (w := 0x0000)
      (no_match_of_unusedFunction (.inr (.inl ⟨rfl, .inl rfl⟩))) rfl⟩

end Sys2Proof

namespace Sys2Proof.Machine

/-! ### The reference microprogram as a text (R98, R99) -/

/-- The lines of the text of R99: `BOOT`, then `FRAME` under a label, then `LOOP` to the label. -/
def bootFrameLoop : List AsmLine :=
  [⟨none, some .boot⟩, ⟨some "again".toList, some .frame⟩,
    ⟨none, some (.jump (.label "again".toList))⟩]

/-- The text reads as these lines: its label, its blanks and its comment are taken off. -/
theorem parse_bootFrameLoop :
    (splitAtChar '\n' "BOOT\nagain: FRAME\n LOOP again ; close the loop".toList).mapM parseLine =
      some bootFrameLoop := by
  decide +kernel

/-- The label means the index after the four words of `BOOT`. -/
theorem labelsFrom_bootFrameLoop : labelsFrom 0 bootFrameLoop = [("again".toList, 4)] := rfl

/-- The lines expand to the ten words of R214. -/
theorem placeLines_bootFrameLoop :
    placeLines [("again".toList, 4)] 0 bootFrameLoop [] = some referenceProg := by
  decide +kernel

/-- Settles O57: the text is read, its label found and its lines placed. -/
theorem pseudoInstructionsGiveTheReferenceProgram :
    Obligations.PseudoInstructionsGiveTheReferenceProgram := by
  rw [Obligations.PseudoInstructionsGiveTheReferenceProgram, assemble, parse_bootFrameLoop]
  exact (congrArg (placeLines · 0 bootFrameLoop []) labelsFrom_bootFrameLoop).trans
    placeLines_bootFrameLoop

end Sys2Proof.Machine

/-! The clock (40_clock): what its five operations write, the turns that move it or pass, and what it reads
after a run of any length. -/

namespace Sys2Proof

/-- The word of a well-formed operation matches the row of its mnemonic (R93, R95). -/
theorem encode_matches_row {i : Instr} (word : Laws.RowMatch.Statement i)
    (wf : i.wellFormed = true) (n : Nat) {r : OpcodeRow} (hr : opcodeRows[n]? = some r)
    (name : r.mnemonic = i.mnemonic) : encode i &&& r.mask = r.pattern := by
  obtain ⟨q, hq, qname, admits⟩ := word
  obtain rfl : q = r := List.inj_on_of_nodup_map opcodeRows_mnemonics_nodup hq
    (List.mem_of_getElem? hr) (qname.trans name.symm)
  exact (q.admits_iff _).1 (admits wf)

/-- A scaled reading in exact numbers: the product is not truncated before the division (R127, R128). -/
theorem Cfg.scaled_toNat (c : Cfg) (unit : Nat) (e : Word) :
    (c.scaled unit e).toNat = e.toNat * unit / c.tickHz % 2 ^ 32 := BitVec.toNat_ofNat _ _

/-- At one tick per microsecond the microseconds are the ticks (R127). -/
theorem Cfg.scaled_micros {c : Cfg} (rate : c.tickHz = 1000000) (e : Word) :
    c.scaled 1000000 e = e := by
  rw [Cfg.scaled, rate, Nat.mul_div_cancel _ (by decide), BitVec.ofNat_toNat, BitVec.setWidth_eq]

/-- At one tick per microsecond the milliseconds are the ticks by the thousand, and fit (R128). -/
theorem Cfg.scaled_millis_toNat {c : Cfg} (rate : c.tickHz = 1000000) (e : Word) :
    (c.scaled 1000 e).toNat = e.toNat / 1000 := by
  have := e.isLt
  rw [Cfg.scaled_toNat, rate]
  omega

end Sys2Proof

namespace Sys2Proof.Machine

/-! ### What a clock query writes -/

/-- The register an operation wrote before `pc` moved on is read back. -/
theorem State.x_setX_advance (s : State) (r : Reg) (v : Word) : (s.setX r v).advance.x r = v := by
  rw [State.advance_x, Regs.read_write, if_pos rfl]

/-- The elapsed ticks in exact numbers (R126). -/
theorem State.elapsed_toNat (s : State) (start : Word) :
    (s.elapsed start).toNat = (2 ^ 32 + s.now.toNat - start.toNat) % 2 ^ 32 := by
  have := start.isLt
  rw [State.elapsed, BitVec.toNat_sub]
  congr 1
  omega

/-- A clock that wrapped since the start reads below it (R126). -/
theorem State.elapsed_toNat_of_lt {s : State} {start : Word} (wrapped : s.now.toNat < start.toNat) :
    (s.elapsed start).toNat = s.now.toNat + 2 ^ 32 - start.toNat := by
  have := start.isLt
  rw [State.elapsed_toNat]
  omega

/-- Settles O21: `NOW()` is written, and the word is the row's pattern under its mask. -/
theorem clkNowReadsTheClock : Obligations.ClkNowReadsTheClock :=
  fun rd _ => ⟨encode_matches_row (Laws.RowMatch.clkNow rd) rfl 3 rfl rfl, rfl⟩

/-- Settles O22: what is written is the elapsed ticks since the old source. -/
theorem clkElapsedIsModular : Obligations.ClkElapsedIsModular := by
  rintro rd rs s _ rfl
  refine ⟨encode_matches_row (Laws.RowMatch.clkElapsed rd rs) rfl 4 rfl rfl,
    (s.setX rd (s.elapsed (s.x rs))).advance, rfl, ?_⟩
  rw [State.x_setX_advance]
  exact ⟨rfl, s.elapsed_toNat _, State.elapsed_toNat_of_lt, fun same => sub_eq_zero.2 same⟩

/-- Settles O23: what is written is the elapsed ticks, scaled to microseconds. -/
theorem clkMicrosScalesTheElapsedTicks : Obligations.ClkMicrosScalesTheElapsedTicks := by
  rintro rd rs s _ rfl
  refine ⟨encode_matches_row (Laws.RowMatch.clkMicros rd rs) rfl 5 rfl rfl,
    (s.setX rd (s.cfg.scaled 1000000 (s.elapsed (s.x rs)))).advance, rfl, ?_⟩
  rw [State.x_setX_advance]
  exact ⟨rfl, Cfg.scaled_toNat _ _ _, fun rate => Cfg.scaled_micros rate _⟩

/-- Settles O24: what is written is the elapsed ticks, scaled to milliseconds. -/
theorem clkMillisScalesTheElapsedTicks : Obligations.ClkMillisScalesTheElapsedTicks := by
  rintro rd rs s e rfl
  refine ⟨encode_matches_row (Laws.RowMatch.clkMillis rd rs) rfl 6 rfl rfl,
    (s.setX rd (s.cfg.scaled 1000 (s.elapsed (s.x rs)))).advance, rfl, ?_⟩
  rw [State.x_setX_advance]
  refine ⟨rfl, Cfg.scaled_toNat _ _ _, fun rate => ?_⟩
  have millis := Cfg.scaled_millis_toNat rate (s.elapsed (s.x rs))
  have := (s.elapsed (s.x rs)).isLt
  exact ⟨millis, by omega⟩

/-! ### Starting the clock -/

/-- A clock that runs is not started again, and `RES_OK` is not sampled (R124). -/
theorem exec_clkInit_of_inited {s : State} (h : s.inited = true) :
    exec .clkInit s = .next (s.raise .clockDoubleInit) := by
  simp only [exec, execClkInit, h, if_true]

/-- A stopped clock whose hardware is not available is not started (R124). -/
theorem exec_clkInit_of_unavailable {s : State} (stopped : s.inited = false)
    (h : s.resOkNow = false) :
    exec .clkInit s = .next (s.resOkSampled.raise .initializationFailure) := by
  simp only [exec, execClkInit, stopped, h, Bool.false_eq_true, if_false]

/-- A stopped clock whose hardware is available starts from 0 (R124). -/
theorem exec_clkInit_of_available {s : State} (stopped : s.inited = false)
    (h : s.resOkNow = true) :
    exec .clkInit s = .next (State.advance { s.resOkSampled with cnt := 0, inited := true }) := by
  simp only [exec, execClkInit, stopped, h, Bool.false_eq_true, if_false, if_true]

/-- Settles O20: the double-initialisation test comes first, then `RES_OK` is sampled. -/
theorem clkInitStartsTheClockOnce : Obligations.ClkInitStartsTheClockOnce :=
  fun _ => ⟨rfl, exec_clkInit_of_inited, exec_clkInit_of_unavailable, exec_clkInit_of_available⟩

/-! ### The turns of the agents -/

/-- In an accepted configuration a turn of the tick source is `State.tick`, the turn counted (R20). -/
theorem step_of_tick_turn {s : State} (hc : s.cfg.accepted = true) (ht : s.turn = .tick) :
    step s = .next s.turnTaken.tick := by
  rw [step, if_pos hc, ht]

/-- In an accepted configuration a turn of the transmitter is `State.txStep`, the turn counted (R20). -/
theorem step_of_tx_turn {s : State} (hc : s.cfg.accepted = true) (ht : s.turn = .tx) :
    step s = .next s.turnTaken.txStep := by
  rw [step, if_pos hc, ht]

/-- A tick of a running clock (R121). -/
theorem State.tick_of_inited {s : State} (h : s.inited = true) :
    s.tick = { s with cnt := s.cnt + 1 } := if_pos h

/-- A stopped clock counts no tick (R121). -/
theorem State.tick_of_not_inited {s : State} (h : s.inited = false) : s.tick = s :=
  if_neg (Bool.eq_false_iff.1 h)

/-- The transmitter has nothing to do where no frame is in flight (R188). -/
theorem State.txStep_of_not_busy {s : State} (h : s.txst ≠ .busy) : s.txStep = s := by
  rcases s.txStep_cases with ⟨busy, _⟩ | ⟨_, answer⟩
  · exact absurd busy h
  · exact answer

/-- A halted sequencer's turn passes (R200, log entry 8). -/
theorem seqTurn_of_halted {s : State} (h : s.halted = true) : seqTurn s = .next s := by
  rw [seqTurn, if_pos h]

/-- A running sequencer's turn is the operation its word decodes to (R200). -/
theorem seqTurn_of_decode {s : State} (running : s.halted = false) {i : Instr}
    (h : decode s.fetch = .ok i) : seqTurn s = exec i s := by
  rw [seqTurn, running, h]
  rfl

/-- `FRM.XMIT` is held while a frame is in flight (R187, log entry 8). -/
theorem exec_frmXmit_of_busy {s : State} (h : s.txst = .busy) : exec .frmXmit s = .next s := by
  simp only [exec, execFrmXmit, h]

/-- A sequencer that is halted or held at `FRM.XMIT` passes its turn (R187, R200). -/
theorem seqTurn_of_disabled {s : State}
    (h : s.halted = true ∨ (decode s.fetch = .ok .frmXmit ∧ s.txst = .busy)) :
    seqTurn s = .next s := by
  cases halt : s.halted with
  | true => exact seqTurn_of_halted halt
  | false =>
    obtain ⟨atXmit, busy⟩ := h.resolve_left (Bool.eq_false_iff.1 halt)
    exact (seqTurn_of_decode halt atXmit).trans (exec_frmXmit_of_busy busy)

/-- Settles O9: agent by agent, a turn without an enabled step answers the state it was given. -/
theorem turnWithoutAnEnabledStepPasses : Obligations.TurnWithoutAnEnabledStepPasses := by
  intro s hc
  refine ⟨fun ht disabled => ?_, fun ht stopped => ?_, fun ht unsent => ?_⟩
  · exact (step_of_seq_turn hc ht).trans (seqTurn_of_disabled (s := s.turnTaken) disabled)
  · rw [step_of_tick_turn hc ht, State.tick_of_not_inited (s := s.turnTaken) stopped]
  · rw [step_of_tx_turn hc ht, State.txStep_of_not_busy (s := s.turnTaken) unsent]

/-- Settles O10: with a running clock the sum of two words is their sum modulo 2^32; else the turn passes. -/
theorem tickTurnCountsOne : Obligations.TickTurnCountsOne := by
  intro s hc ht
  rw [step_of_tick_turn hc ht]
  cases clock : s.inited with
  | true =>
    have sum : s.cnt + 1 = BitVec.ofNat 32 ((s.cnt.toNat + 1) % 2 ^ 32) :=
      BitVec.eq_of_toNat_eq (by simp [BitVec.toNat_add])
    rw [State.tick_of_inited (s := s.turnTaken) clock, State.turnTaken_cnt, sum, if_pos rfl]
  | false =>
    rw [State.tick_of_not_inited (s := s.turnTaken) clock]
    rfl

/-! ### The schedule along a run -/

/-- A turn of the sequencer does not move the schedule (log entry 2). -/
theorem seqTurn_schedule {s t : State} (h : seqTurn s = .next t) : t.schedule = s.schedule := by
  rcases seqTurn_cases h with ⟨_, rfl⟩ | ⟨_, _, rfl⟩ | ⟨_, _, _, hexec⟩
  · rfl
  · exact State.raise_schedule s _
  · exact exec_schedule hexec

/-- Every step takes one turn from the schedule (log entry 2). -/
theorem step_schedule {s t : State} (h : step s = .next t) : t.schedule = s.schedule.next := by
  obtain ⟨_, ⟨_, hseq⟩ | ⟨_, rfl⟩ | ⟨_, rfl⟩ | ⟨_, rfl⟩⟩ := step_cases h
  · exact seqTurn_schedule hseq
  · rcases s.turnTaken.tick_cases with ⟨_, answer⟩ | ⟨_, answer⟩ <;> rw [answer] <;> rfl
  · rcases s.turnTaken.txStep_cases with ⟨_, answer⟩ | ⟨_, answer⟩ <;> rw [answer] <;> rfl
  · rfl

/-- A run that answers after `n + 1` steps took a first step and ran on from there. -/
theorem run_first {n : Nat} {s t : State} (h : core.run (n + 1) s = .next t) :
    ∃ u : State, step s = .next u ∧ core.run n u = .next t := by
  simp only [Host.Core.run] at h
  split at h
  · exact ⟨_, ‹_›, h⟩
  · cases h
  · cases h

/-- A first step and a run from there are one run. -/
theorem run_of_first {n : Nat} {s u : State} (first : step s = .next u) :
    core.run (n + 1) s = core.run n u := by
  have answer : core.step s = .next u := first
  simp only [Host.Core.run, answer]

/-- A run that answers after `n + 1` steps took its last step where `n` steps had led. -/
theorem run_last {n : Nat} {s t : State} (h : core.run (n + 1) s = .next t) :
    ∃ u : State, core.run n s = .next u ∧ step u = .next t := by
  induction n generalizing s with
  | zero =>
    obtain ⟨u, first, rest⟩ := run_first h
    cases rest
    exact ⟨s, rfl, first⟩
  | succ n ih =>
    obtain ⟨v, first, rest⟩ := run_first h
    obtain ⟨u, hu, last⟩ := ih rest
    exact ⟨u, (run_of_first first).trans hu, last⟩

/-- After `n` steps `n` turns have been taken from the schedule (log entry 2). -/
theorem run_schedule {n : Nat} {s t : State} (h : core.run n s = .next t) :
    t.schedule = ⟨s.schedule.script.drop n, s.schedule.taken + n⟩ := by
  induction n generalizing t with
  | zero =>
    cases h
    rfl
  | succ n ih =>
    obtain ⟨u, hu, last⟩ := run_last h
    rw [step_schedule last, ih hu, Oracle.next, List.tail_drop, Nat.add_assoc]

/-- Whose turn it is after `n` steps: what the schedule said at the start. -/
theorem run_turn {n : Nat} {s t : State} (h : core.run n s = .next t) : t.turn = s.turnAt n := by
  rw [State.turn, run_schedule h, Oracle.answer, State.turnAt]
  cases s.schedule.script.drop n <;> rfl

/-! ### The clock along a run -/

/-- No operation disturbs a running clock: `CLK.INIT` faults and no other writes it (R123, R124). -/
theorem exec_clock {i : Instr} {s t : State} (clock : s.inited = true) (h : exec i s = .next t) :
    t.inited = true ∧ t.cnt = s.cnt := by
  by_cases op : i = .clkInit
  · subst op
    rw [exec_clkInit_of_inited clock] at h
    cases h
    exact ⟨clock, rfl⟩
  · obtain ⟨cnt, inited, _⟩ := (exec_framed h).clock op
    exact ⟨inited.trans clock, cnt⟩

/-- No turn of the sequencer disturbs a running clock (R123). -/
theorem seqTurn_clock {s t : State} (clock : s.inited = true) (h : seqTurn s = .next t) :
    t.inited = true ∧ t.cnt = s.cnt := by
  rcases seqTurn_cases h with ⟨_, rfl⟩ | ⟨_, _, rfl⟩ | ⟨_, _, _, hexec⟩
  · exact ⟨clock, rfl⟩
  · exact ⟨clock, rfl⟩
  · exact exec_clock clock hexec

/-- A step other than the host's reset adds one to a running clock if it is a tick, and else leaves it
alone (R121, R123). -/
theorem step_clock {s t : State} (clock : s.inited = true) (unreset : s.turn ≠ .hostReset)
    (h : step s = .next t) :
    t.inited = true ∧ t.cnt = s.cnt + BitVec.ofNat 32 (if s.turn = .tick then 1 else 0) := by
  have still : s.cnt = s.cnt + BitVec.ofNat 32 0 := (BitVec.add_zero _).symm
  obtain ⟨_, ⟨turn, hseq⟩ | ⟨turn, rfl⟩ | ⟨turn, rfl⟩ | ⟨turn, _⟩⟩ := step_cases h
  · obtain ⟨inited, cnt⟩ := seqTurn_clock (s := s.turnTaken) clock hseq
    rw [turn]
    exact ⟨inited, cnt.trans still⟩
  · rw [turn, State.tick_of_inited (s := s.turnTaken) clock]
    exact ⟨clock, rfl⟩
  · rw [turn]
    rcases s.turnTaken.txStep_cases with ⟨_, answer⟩ | ⟨_, answer⟩ <;> rw [answer]
    · exact ⟨clock, still⟩
    · exact ⟨clock, still⟩
  · exact absurd turn unreset

/-- Settles O54: by induction on the length of the run, its last step being the turn the schedule names. -/
theorem clockCountsTheTicksOfARun : Obligations.ClockCountsTheTicksOfARun := by
  intro s t n clock unreset h
  induction n generalizing t with
  | zero =>
    cases h
    exact ⟨clock, (BitVec.add_zero _).symm⟩
  | succ n ih =>
    obtain ⟨u, hu, last⟩ := run_last h
    obtain ⟨running, count⟩ := ih u (fun j hj => unreset j (hj.trans n.lt_succ_self)) hu
    have turn : u.turn = s.turnAt n := run_turn hu
    obtain ⟨inited, cnt⟩ := step_clock running (turn ▸ unreset n n.lt_succ_self) last
    refine ⟨inited, ?_⟩
    rw [cnt, count, turn, State.ticksIn, BitVec.ofNat_add, BitVec.add_assoc]

end Sys2Proof.Machine

/-! The random source (41_random): the steps that assemble the seed, the draws that reach registers, and the
order in which a pass over IDLE pixels takes its draws. -/

namespace Sys2Proof

/-- The low half of a double word in exact numbers. -/
theorem toNat_lowHalf (q : BitVec 64) : (q.extractLsb' 0 32).toNat = q.toNat % 2 ^ 32 := by
  rw [BitVec.extractLsb'_toNat, Nat.shiftRight_zero]

/-- The high half of a double word in exact numbers. -/
theorem toNat_highHalf (q : BitVec 64) : (q.extractLsb' 32 32).toNat = q.toNat / 2 ^ 32 := by
  have := q.isLt
  rw [BitVec.extractLsb'_toNat, Nat.shiftRight_eq_div_pow]
  omega

/-- One more draw is made from where the earlier ones left the generator. -/
theorem Cfg.genAfter_succ (c : Cfg) (n : Nat) (g : Gen) :
    c.genAfter (n + 1) g = (c.prngNextU32 (c.genAfter n g)).2 := by
  induction n generalizing g with
  | zero => rfl
  | succ n ih => exact ih _

end Sys2Proof

namespace Sys2Proof.Machine

/-! ### Assembling the seed -/

/-- A seeded source is not seeded again, and no entropy call is made (R143, R236). -/
theorem exec_rngSeed_of_seeded {s : State} (seeded : s.seeded = true) :
    exec .rngSeed s = .next (s.raise .rngDoubleSeed) :=
  if_pos seeded

/-- An unseeded source with room for a sample makes one entropy call and follows its answer (R143). -/
theorem exec_rngSeed_of_unseeded {s : State} (unseeded : s.seeded = false)
    (room : s.sampleBase + 3 < 32) :
    exec .rngSeed s = .next
      (match s.entropyAnswer with
       | .timeout => s.entropyCalled.raise .entropyTimeout
       | .needMore => s.entropyCalled
       | .accept w => s.entropyCalled.acceptSample w) :=
  (if_neg (Bool.eq_false_iff.1 unseeded)).trans (if_pos room)

/-- A sample before the last is stored and counted, and `pc` stays (R143). -/
theorem State.acceptSample_of_more {s : State} (w : Word)
    (more : s.scnt.toNat + 1 ≠ 2 * s.cfg.samplesPerHalf) :
    s.acceptSample w = { s with
      mem := { s.mem with seedbuf := writeSample s.mem.seedbuf s.sampleBase w }
      scnt := s.scnt + 1 } :=
  if_neg more

/-- The last sample also seeds the generator from the 32 bytes it completes, and `pc` moves on (R143). -/
theorem State.acceptSample_of_last {s : State} (w : Word)
    (last : s.scnt.toNat + 1 = 2 * s.cfg.samplesPerHalf) :
    s.acceptSample w = { s with
      mem := { s.mem with seedbuf := writeSample s.mem.seedbuf s.sampleBase w }
      scnt := s.scnt + 1
      gen := s.cfg.prngFromSeed (seedOf (writeSample s.mem.seedbuf s.sampleBase w))
      seeded := true
      pc := s.pc + 1 } :=
  if_pos last

/-- Settles O25: the seed test comes first, then each answer of the entropy call. -/
theorem rngSeedStep : Obligations.RngSeedStep := by
  rintro s _ wf atLeast atMost rfl
  refine ⟨rfl, exec_rngSeed_of_seeded, fun unseeded inBound => ?_⟩
  obtain ⟨_, _, _, seedbuf⟩ := (Memory.wf_iff _ _).1 wf
  have room : s.sampleBase + 3 < 32 := sampleBase_lt atLeast atMost inBound
  have called := exec_rngSeed_of_unseeded unseeded room
  refine ⟨fun timeout => ?_, fun needMore => ?_, fun w accept => ?_⟩
  · rw [called, timeout]
    rfl
  · rw [called, needMore]
    rfl
  · rw [accept] at called
    refine ⟨writeSample s.mem.seedbuf s.sampleBase w, readElem_writeSample seedbuf room w,
      fun more => ?_, fun last => ?_⟩
    · exact called.trans (congrArg _ (s.entropyCalled.acceptSample_of_more w more))
    · exact called.trans (congrArg _ (s.entropyCalled.acceptSample_of_last w last))

/-! ### Draws that reach registers -/

/-- A seeded 64-bit draw: the generator's next double word, and the state it left (R148). -/
theorem State.draw64_seeded {s : State} (seeded : s.seeded = true) :
    s.draw64 =
      .ok ((s.cfg.prngNextU64 s.gen).1, { s with gen := (s.cfg.prngNextU64 s.gen).2 }) :=
  if_pos seeded

/-- An unseeded 64-bit draw faults (R148). -/
theorem State.draw64_unseeded {s : State} (unseeded : s.seeded = false) :
    s.draw64 = .error .rngNotSeeded :=
  if_neg (Bool.eq_false_iff.1 unseeded)

/-- Settles O26: the outcome is that of the draw. -/
theorem rngU32WritesOneDraw : Obligations.RngU32WritesOneDraw := by
  intro rd s
  refine ⟨encode_matches_row (Laws.RowMatch.rngU32 rd) rfl 8 rfl rfl, fun seeded => ?_,
    fun unseeded => ?_⟩
  · simp only [exec, execRngU32, State.draw32_seeded seeded]
    rfl
  · simp only [exec, execRngU32, State.draw32_unseeded unseeded]
    rfl

/-- `RNG.U64` of a seeded source writes the two halves of one draw, the low one first (R148). -/
theorem exec_rngU64_of_seeded {rd : Reg} {s : State} (even : rd.isEven = true)
    (seeded : s.seeded = true) :
    exec (.rngU64 rd) s = .next
      (((({ s with gen := (s.cfg.prngNextU64 s.gen).2 } : State).setX rd
        ((s.cfg.prngNextU64 s.gen).1.extractLsb' 0 32)).setX (pairHigh rd)
        ((s.cfg.prngNextU64 s.gen).1.extractLsb' 32 32)).advance) := by
  simp only [exec, execRngU64, even, if_true, State.draw64_seeded seeded]
  rfl

/-- `RNG.U64` of an unseeded source faults and writes nothing (R148). -/
theorem exec_rngU64_of_unseeded {rd : Reg} {s : State} (even : rd.isEven = true)
    (unseeded : s.seeded = false) : exec (.rngU64 rd) s = .next (s.raise .rngNotSeeded) := by
  simp only [exec, execRngU64, even, if_true, State.draw64_unseeded unseeded]
  rfl

/-- The pairs the encoding has: an even register and the one after it (R92). -/
theorem pairHigh_of_pair {rd hi : Reg} (pair : (rd = .x0 ∧ hi = .x1) ∨ (rd = .x2 ∧ hi = .x3)) :
    rd.isEven = true ∧ pairHigh rd = hi ∧ rd ≠ hi := by
  rcases pair with ⟨rfl, rfl⟩ | ⟨rfl, rfl⟩
  · exact ⟨rfl, rfl, by decide⟩
  · exact ⟨rfl, rfl, by decide⟩

/-- Settles O27: the two register writes of one draw, which do not meet. -/
theorem rngU64WritesTheRegisterPair : Obligations.RngU64WritesTheRegisterPair := by
  intro rd hi s pair
  obtain ⟨even, rfl, apart⟩ := pairHigh_of_pair pair
  refine ⟨encode_matches_row (Laws.RowMatch.rngU64 rd) even 9 rfl rfl, fun seeded => ?_,
    exec_rngU64_of_unseeded even⟩
  refine ⟨_, exec_rngU64_of_seeded even seeded, ?_, ?_, fun r notLow notHigh => ?_, rfl⟩
  · rw [State.advance_x, Regs.read_write, if_neg apart, Regs.read_write, if_pos rfl, toNat_lowHalf]
  · rw [State.x_setX_advance, toNat_highHalf]
  · rw [State.advance_x, Regs.read_write, if_neg notHigh, Regs.read_write, if_neg notLow]
    rfl

/-! ### The draws of a pass over IDLE pixels -/

/-- Pixel `i` after one draw from the generator: it fades to the shared target from black (R162). -/
def State.fadeStarted (s : State) (i : Nat) : State :=
  (({ s with gen := (s.cfg.prngNextU32 s.gen).2 } : State).setPix i
    ⟨s.tgtHue, s.tgtSat, 0, rateOf (s.cfg.prngNextU32 s.gen).1⟩).setLog i Color.black

/-- The step of an IDLE pixel of a seeded source starts its fade (R161, R162). -/
theorem State.stepPixel_of_idle {s : State} {i : Nat} (seeded : s.seeded = true)
    (idle : (s.pix i).rate = 0) : s.stepPixel i = .ok (s.fadeStarted i) := by
  simp only [State.stepPixel, Pixel.isIdle, idle, beq_self_eq_true, if_true, State.idleToFading,
    State.draw32_seeded seeded]
  rfl

/-- The pixel whose fade starts is written with its colour, black (R162). -/
theorem State.fadeStarted_same {s : State} (wf : s.mem.wf s.cfg.pixels = true) (i : Nat) :
    (s.fadeStarted i).pix i = ⟨s.tgtHue, s.tgtSat, 0, rateOf (s.cfg.prngNextU32 s.gen).1⟩ ∧
      (s.fadeStarted i).log i = Color.black := by
  obtain ⟨pix, log, _, _⟩ := (Memory.wf_iff _ _).1 wf
  exact ⟨(readElem_writeElem resetPixel pix i i _).trans (if_pos rfl),
    (readElem_writeElem Color.black log i i _).trans (if_pos rfl)⟩

/-- Starting a fade keeps the canonical form. -/
theorem State.fadeStarted_wf {s : State} {n i : Nat} (wf : s.mem.wf n = true) (hi : i < n) :
    (s.fadeStarted i).mem.wf n = true :=
  State.setLog_wf (State.setPix_wf (s := { s with gen := (s.cfg.prngNextU32 s.gen).2 }) wf hi _) hi _

/-- A step of `SCH.STEPALL` adds to the step of its pixel a move of `pc` and of `PIDX`, which counts up
until the last pixel (R206). -/
theorem exec_schStepall_moves {s u : State} (range : s.pidx.toNat < s.cfg.pixels)
    (size : s.cfg.pixels ≤ 256) (pixel : s.stepPixel s.pidx.toNat = .ok u) :
    ∃ p q : Byte, exec .schStepall s = .next { u with pc := p, pidx := q } ∧
      (s.pidx.toNat + 1 < s.cfg.pixels → q.toNat = s.pidx.toNat + 1) := by
  rw [exec_schStepall_ok range pixel]
  split
  · exact ⟨_, _, rfl, fun more => by omega⟩
  · exact ⟨_, _, rfl, fun more => BitVec.toNat_add_of_lt (y := 1#8) (more.trans_le size)⟩

/-- `t` is where `n` steps of a pass of `SCH.STEPALL` from `s`, all of whose pixels are IDLE, have led:
the pixels below `n` have taken the first `n` draws in order, the others are as before (R149, R206). -/
structure State.FadesStarted (s : State) (n : Nat) (t : State) : Prop where
  cfg : t.cfg = s.cfg
  wf : t.mem.wf t.cfg.pixels = true
  seeded : t.seeded = true
  hue : t.tgtHue = s.tgtHue
  sat : t.tgtSat = s.tgtSat
  pidx : n < s.cfg.pixels → t.pidx.toNat = n
  gen : t.gen = s.cfg.genAfter n s.gen
  started : ∀ j, j < n →
    t.pix j = ⟨s.tgtHue, s.tgtSat, 0, rateOf (s.cfg.prngNextU32 (s.cfg.genAfter j s.gen)).1⟩ ∧
    t.log j = Color.black
  waiting : ∀ j, n ≤ j → t.pix j = s.pix j

/-- One more step of the pass gives the pixel at `PIDX` the next draw. -/
theorem State.FadesStarted.step {s t : State} {n : Nat} (h : s.FadesStarted n t)
    (size : s.cfg.pixels ≤ 256) (hn : n < s.cfg.pixels) (idle : (s.pix n).rate = 0) :
    ∃ u, exec .schStepall t = .next u ∧ s.FadesStarted (n + 1) u := by
  obtain ⟨cfg, wf, seeded, hue, sat, pidx, gen, started, waiting⟩ := h
  have atN : t.pidx.toNat = n := pidx hn
  have range : n < t.cfg.pixels := by rwa [cfg]
  have pixel : t.stepPixel n = .ok (t.fadeStarted n) :=
    State.stepPixel_of_idle seeded ((waiting n le_rfl).symm ▸ idle)
  have others (j : Nat) (hj : j ≠ n) := State.stepPixel_others wf pixel hj
  obtain ⟨samePix, sameLog⟩ := State.fadeStarted_same wf n
  obtain ⟨p, q, answer, moved⟩ := exec_schStepall_moves (s := t) (by rwa [atN]) (by rwa [cfg])
    (by rwa [atN])
  rw [atN, cfg] at moved
  exact ⟨_, answer, {
    cfg := cfg
    wf := State.fadeStarted_wf wf range
    seeded := seeded
    hue := hue
    sat := sat
    pidx := moved
    gen := by
      rw [Cfg.genAfter_succ, ← gen, ← cfg]
      rfl
    started := fun j hj => by
      rcases Nat.lt_succ_iff_lt_or_eq.1 hj with before | rfl
      · obtain ⟨keptPix, keptLog⟩ := others j before.ne
        obtain ⟨pix, log⟩ := started j before
        exact ⟨keptPix.trans pix, keptLog.trans log⟩
      · rw [hue, sat, cfg, gen] at samePix
        exact ⟨samePix, sameLog⟩
    waiting := fun j hj =>
      (others j (Nat.lt_of_succ_le hj).ne').1.trans (waiting j (Nat.le_of_succ_le hj)) }⟩

/-- Any number of steps up to the whole pass keeps to that order: by induction on their number. -/
theorem execRepeat_fadesStarted {s : State} (wf : s.mem.wf s.cfg.pixels = true)
    (size : s.cfg.pixels ≤ 256) (seeded : s.seeded = true) (first : s.pidx = 0)
    (idle : ∀ j, j < s.cfg.pixels → (s.pix j).rate = 0) {n : Nat} (hn : n ≤ s.cfg.pixels) :
    ∃ t, execRepeat .schStepall n s = .next t ∧ s.FadesStarted n t := by
  induction n with
  | zero =>
    exact ⟨s, rfl, {
      cfg := rfl
      wf := wf
      seeded := seeded
      hue := rfl
      sat := rfl
      pidx := fun _ => congrArg BitVec.toNat first
      gen := rfl
      started := fun _ below => absurd below (Nat.not_lt_zero _)
      waiting := fun _ _ => rfl }⟩
  | succ n ih =>
    obtain ⟨t, run, order⟩ := ih (Nat.le_of_succ_le hn)
    obtain ⟨u, last, order'⟩ := order.step size hn (idle n hn)
    exact ⟨u, (execRepeat_succ run).trans last, order'⟩

/-- Settles O43: the order of the draws after `k + 1` steps. -/
theorem stepallDrawsInPixelOrder : Obligations.StepallDrawsInPixelOrder := by
  intro s wf size seeded first idle k hk
  obtain ⟨t, run, order⟩ := execRepeat_fadesStarted wf size seeded first idle (Nat.succ_le_of_lt hk)
  exact ⟨t, run, order.gen, fun j hj => order.started j (Nat.lt_succ_of_le hj)⟩

end Sys2Proof.Machine

/-! The pixels (42_pixel): the brightness as a blend along one segment of the curve, the rate draw, the three
transitions of `PIX.STEP`, and the length of a fade. -/

namespace Sys2Proof

/-! ### The brightness of a phase -/

/-- The entry of `CURVE` at an index below 256, as a number (R165). -/
def Cfg.curveEntry (c : Cfg) (i : Nat) : Nat := (c.curve.at (BitVec.ofNat 8 i)).toNat

/-- The blend of two curve entries before the shift: `a` at `f = 0`, `b` at `f = 256`, 256-fold (R165). -/
def blendSum (a b f : Nat) : Nat := a * (256 - f) + b * f

/-- A curve entry is a byte. -/
theorem Cfg.curveEntry_le (c : Cfg) (i : Nat) : c.curveEntry i ≤ 255 := Nat.le_of_lt_succ (BitVec.isLt _)

/-- A segment starts at its first entry. -/
theorem blendSum_start (a b : Nat) : blendSum a b 0 = a * 256 := by
  rw [blendSum, Nat.mul_zero, Nat.add_zero]

/-- A segment ends at its second entry. -/
theorem blendSum_end (a b : Nat) : blendSum a b 256 = b * 256 := by
  rw [blendSum, Nat.sub_self, Nat.mul_zero, Nat.zero_add]

/-- A blend of two equal entries is that entry. -/
theorem blendSum_self (a : Nat) {f : Nat} (hf : f ≤ 256) : blendSum a a f = a * 256 := by
  rw [blendSum, ← Nat.mul_add, Nat.sub_add_cancel hf]

/-- The blend grows with both entries. -/
theorem blendSum_mono {a b a' b' : Nat} (ha : a ≤ a') (hb : b ≤ b') (f : Nat) :
    blendSum a b f ≤ blendSum a' b' f :=
  Nat.add_le_add (Nat.mul_le_mul_right _ ha) (Nat.mul_le_mul_right _ hb)

/-- The blend lies between the blends of the smaller and of the larger entry. -/
theorem blendSum_between (a b : Nat) {f : Nat} (hf : f ≤ 256) :
    min a b * 256 ≤ blendSum a b f ∧ blendSum a b f ≤ max a b * 256 := by
  rw [← blendSum_self (min a b) hf, ← blendSum_self (max a b) hf]
  exact ⟨blendSum_mono (min_le_left a b) (min_le_right a b) f,
    blendSum_mono (le_max_left a b) (le_max_right a b) f⟩

/-- One step along a segment trades one `a` for one `b`. -/
theorem blendSum_succ (a b : Nat) {f : Nat} (hf : f < 256) :
    blendSum a b (f + 1) + a = blendSum a b f + b := by
  have left : 256 - f = 256 - (f + 1) + 1 := by omega
  rw [blendSum, blendSum, left]
  ring

/-- The high byte of a phase indexes the curve (R165). -/
theorem highByte_eq (ph : Half) : ph.extractLsb' 8 8 = BitVec.ofNat 8 (ph.toNat / 256) := by
  apply BitVec.eq_of_toNat_eq
  rw [BitVec.extractLsb'_toNat, BitVec.toNat_ofNat, Nat.shiftRight_eq_div_pow]

/-- The low byte of a phase is the weight (R165). -/
theorem lowByte_toNat (ph : Half) : (ph.extractLsb' 0 8).toNat = ph.toNat % 256 := by
  rw [BitVec.extractLsb'_toNat, Nat.shiftRight_zero]

/-- The next index wraps after the last (R165). -/
theorem nextIndex_eq (i : Nat) : BitVec.ofNat 8 i + 1 = BitVec.ofNat 8 ((i + 1) % 256) := by
  apply BitVec.eq_of_toNat_eq
  simp [BitVec.toNat_add]

/-- The brightness `f` parts of 256 along the segment that starts at curve index `i` (R165). -/
def Cfg.segmentBright (c : Cfg) (i f : Nat) : Nat :=
  blendSum (c.curveEntry i) (c.curveEntry ((i + 1) % 256)) f / 256

/-- Along a segment the sum before the shift fits 16 bits with room to spare (R166). -/
theorem Cfg.blendSum_curveEntry_le (c : Cfg) (i j : Nat) {f : Nat} (hf : f ≤ 256) :
    blendSum (c.curveEntry i) (c.curveEntry j) f ≤ 65280 :=
  (blendSum_mono (c.curveEntry_le i) (c.curveEntry_le j) f).trans (blendSum_self 255 hf).le

/-- The weight of a phase is less than a whole segment. -/
theorem weight_lt (ph : Half) : ph.toNat % 256 < 256 := Nat.mod_lt _ (by decide)

/-- The brightness in exact numbers: the narrowing to 8 bits loses nothing (R165). -/
theorem Cfg.bright_toNat (c : Cfg) (ph : Half) :
    (c.bright ph).toNat = c.segmentBright (ph.toNat / 256) (ph.toNat % 256) := by
  have fits := c.blendSum_curveEntry_le (ph.toNat / 256) ((ph.toNat / 256 + 1) % 256)
    (weight_lt ph).le
  rw [Cfg.bright, highByte_eq, lowByte_toNat, nextIndex_eq, BitVec.toNat_ofNat,
    Nat.shiftRight_eq_div_pow]
  exact Nat.mod_eq_of_lt (Nat.lt_of_le_of_lt (Nat.div_le_div_right fits) (by decide))

/-- A segment ends where the next one starts, the last one at the first (R169). -/
theorem Cfg.segmentBright_end (c : Cfg) (i : Nat) :
    c.segmentBright i 256 = c.curveEntry ((i + 1) % 256) := by
  rw [Cfg.segmentBright, blendSum_end, Nat.mul_div_cancel _ (by decide)]

/-- A segment starts at its first entry (R166). -/
theorem Cfg.segmentBright_start (c : Cfg) (i : Nat) : c.segmentBright i 0 = c.curveEntry i := by
  rw [Cfg.segmentBright, blendSum_start, Nat.mul_div_cancel _ (by decide)]

/-- The next phase is one part further along the same segment, its end included (R169). -/
theorem Cfg.bright_succ (c : Cfg) (ph : Half) :
    (c.bright (ph + 1)).toNat = c.segmentBright (ph.toNat / 256) (ph.toNat % 256 + 1) := by
  have next : (ph + 1).toNat = (ph.toNat + 1) % 65536 := BitVec.toNat_add ph 1
  have range : ph.toNat < 65536 := ph.isLt
  rw [Cfg.bright_toNat, next]
  by_cases last : ph.toNat % 256 = 255
  · have start : (ph.toNat + 1) % 65536 % 256 = 0 := by omega
    have index : (ph.toNat + 1) % 65536 / 256 = (ph.toNat / 256 + 1) % 256 := by omega
    rw [last, start, index, Cfg.segmentBright_start, Cfg.segmentBright_end]
  · have weight : (ph.toNat + 1) % 65536 % 256 = ph.toNat % 256 + 1 := by omega
    have index : (ph.toNat + 1) % 65536 / 256 = ph.toNat / 256 := by omega
    rw [weight, index]

/-- One part along a segment moves the brightness by at most the segment's 256th part, rounded up
(R169). -/
theorem Cfg.segmentBright_succ (c : Cfg) (i : Nat) {f : Nat} (hf : f < 256) {d : Nat}
    (hd : d = max (c.curveEntry i) (c.curveEntry ((i + 1) % 256)) -
      min (c.curveEntry i) (c.curveEntry ((i + 1) % 256))) :
    c.segmentBright i (f + 1) ≤ c.segmentBright i f + (d + 255) / 256 ∧
      c.segmentBright i f ≤ c.segmentBright i (f + 1) + (d + 255) / 256 := by
  have step := blendSum_succ (c.curveEntry i) (c.curveEntry ((i + 1) % 256)) hf
  simp only [Cfg.segmentBright]
  omega

/-- Along a segment the brightness stays between the two entries (R166). -/
theorem Cfg.segmentBright_between (c : Cfg) (i : Nat) {f : Nat} (hf : f ≤ 256) :
    min (c.curveEntry i) (c.curveEntry ((i + 1) % 256)) ≤ c.segmentBright i f ∧
      c.segmentBright i f ≤ max (c.curveEntry i) (c.curveEntry ((i + 1) % 256)) := by
  obtain ⟨low, high⟩ := blendSum_between (c.curveEntry i) (c.curveEntry ((i + 1) % 256)) hf
  exact ⟨(Nat.le_div_iff_mul_le (by decide)).2 low,
    Nat.div_le_of_le_mul (high.trans (Nat.mul_comm _ _).le)⟩

/-- Settles O30: the narrowing loses nothing. -/
theorem brightnessBlendsTwoCurveEntries : Obligations.BrightnessBlendsTwoCurveEntries := by
  rintro c ph _ _ _ _ rfl rfl rfl rfl
  exact c.bright_toNat ph

/-- Settles O31: the phase's segment runs between its two entries. -/
theorem brightnessBounds : Obligations.BrightnessBounds := by
  rintro c ph _ _ _ _ rfl rfl rfl rfl
  have weight := (weight_lt ph).le
  obtain ⟨low, high⟩ := c.segmentBright_between (ph.toNat / 256) weight
  rw [c.bright_toNat]
  refine ⟨c.blendSum_curveEntry_le _ _ weight,
    high.trans (max_le (c.curveEntry_le _) (c.curveEntry_le _)), fun whole => ?_, low, high, fun last => ?_⟩
  · rw [whole]
    exact c.segmentBright_start _
  · rw [last]
    rfl

/-- Settles O32: the next phase lies one part further along the segment, whose 256th part rounded up is at
most the whole. -/
theorem brightnessIsContinuous : Obligations.BrightnessIsContinuous := by
  rintro c ph _ _ _ d rfl rfl rfl hd
  obtain ⟨up, down⟩ := c.segmentBright_succ (ph.toNat / 256) (weight_lt ph) hd
  rw [c.bright_succ, c.bright_toNat]
  have part : (d + 255) / 256 ≤ d := by omega
  refine ⟨by omega, by omega, fun _ => ⟨up, down⟩, fun last => ?_⟩
  rw [last]
  exact c.segmentBright_end _

end Sys2Proof

namespace Sys2Proof.Machine

/-! ### The rate draw -/

/-- A drawn rate lies between the floor and the mask (R167). -/
theorem rateOf_bounds (d : Word) : 128 ≤ (rateOf d).toNat ∧ (rateOf d).toNat ≤ 1023 := by
  rw [rateOf_toNat]
  omega

/-- Settles O33: the rate is the floored low ten bits. -/
theorem rateDrawIsMaskedAndFloored : Obligations.RateDrawIsMaskedAndFloored := by
  intro d
  obtain ⟨floor, mask⟩ := rateOf_bounds d
  refine ⟨rateOf_toNat d, floor, mask, fun small => BitVec.eq_of_toNat_eq ?_⟩
  rw [rateOf_toNat, max_eq_left small]
  rfl

/-! ### What a pixel step writes -/

/-- After a pixel and its colour are stored, every pixel and every colour (R160). -/
theorem State.setPix_setLog_reads {s : State} {n : Nat} (wf : s.mem.wf n = true) (i : Nat)
    (p : Pixel) (c : Color) :
    (∀ j, ((s.setPix i p).setLog i c).pix j = if j = i then p else s.pix j) ∧
      (∀ j, ((s.setPix i p).setLog i c).log j = if j = i then c else s.log j) := by
  obtain ⟨pix, log, _, _⟩ := (Memory.wf_iff _ _).1 wf
  exact ⟨fun j => readElem_writeElem resetPixel pix i j p,
    fun j => readElem_writeElem Color.black log i j c⟩

/-- The step of an IDLE pixel of an unseeded source faults (R161, R162). -/
theorem State.stepPixel_of_idle_unseeded {s : State} {i : Nat} (idle : (s.pix i).rate = 0)
    (unseeded : s.seeded = false) : s.stepPixel i = .error .rngNotSeeded := by
  simp only [State.stepPixel, Pixel.isIdle, idle, beq_self_eq_true, if_true, State.idleToFading,
    State.draw32_unseeded unseeded]

/-- The step of a FADING pixel whose sum stays below 65536 shows the colour of the new phase (R163). -/
theorem State.stepPixel_of_sum {s : State} {i : Nat} {p : Pixel} (hp : s.pix i = p)
    (fading : p.rate ≠ 0) (sum : p.phase.toNat + p.rate.toNat < 65536) :
    s.stepPixel i = .ok ((s.setPix i ⟨p.hue, p.sat, p.phase + p.rate, p.rate⟩).setLog i
      (s.cfg.hsv2rgb p.hue p.sat (s.cfg.bright (p.phase + p.rate)))) := by
  have carry : ¬ p.phaseCarry = true := fun h =>
    absurd (p.phaseCarry_iff.1 h) (Nat.not_le.2 sum)
  simp only [State.stepPixel, Pixel.isIdle, hp, beq_iff_eq, if_neg fading, if_neg carry,
    State.fadingToFading, Pixel.phaseSum_low]

/-- The step of a FADING pixel whose sum reaches 65536 ends the fade (R164). -/
theorem State.stepPixel_of_carry {s : State} {i : Nat} {p : Pixel} (hp : s.pix i = p)
    (fading : p.rate ≠ 0) (sum : 65536 ≤ p.phase.toNat + p.rate.toNat) :
    s.stepPixel i =
      .ok ((s.setPix i ⟨p.hue, p.sat, p.phase, 0⟩).setLog i Color.black) := by
  have carry := p.phaseCarry_iff.2 sum
  simp only [State.stepPixel, Pixel.isIdle, hp, beq_iff_eq, if_neg fading, if_pos carry,
    State.fadingToIdle]

/-- The step of a FADING pixel answers, seeded or not, and only stores (R161). -/
theorem State.stepPixel_of_fading {s : State} {i : Nat} (fading : (s.pix i).rate ≠ 0) :
    ∃ p c, s.stepPixel i = .ok ((s.setPix i p).setLog i c) := by
  by_cases sum : 65536 ≤ (s.pix i).phase.toNat + (s.pix i).rate.toNat
  · exact ⟨_, _, State.stepPixel_of_carry rfl fading sum⟩
  · exact ⟨_, _, State.stepPixel_of_sum rfl fading (Nat.not_le.1 sum)⟩

/-! ### `PIX.STEP` -/

/-- An index at or past `N` faults before the pixel is looked at (R161, R236). -/
theorem exec_pixStep_of_outOfRange {imm : Byte} {s : State} (h : s.cfg.pixels ≤ imm.toNat) :
    exec (.pixStep imm) s = .next (s.raise .indexRange) :=
  congrArg (fun r => Host.Outcome.next (s.settle r)) (if_neg (Nat.not_lt.2 h))

/-- A pixel step that answers is followed by the default advance (R161). -/
theorem exec_pixStep_ok {imm : Byte} {s u : State} (range : imm.toNat < s.cfg.pixels)
    (pixel : s.stepPixel imm.toNat = .ok u) : exec (.pixStep imm) s = .next u.advance := by
  simp only [exec, execPixStep, pixelIndex, if_pos range, pixel, State.settle]

/-- A pixel step that faults is the operation's fault (R161, R234). -/
theorem exec_pixStep_error {imm : Byte} {s : State} {e : Exc} (range : imm.toNat < s.cfg.pixels)
    (pixel : s.stepPixel imm.toNat = .error e) : exec (.pixStep imm) s = .next (s.raise e) := by
  simp only [exec, execPixStep, pixelIndex, if_pos range, pixel, State.settle]

/-- A pixel step that moves the generator and stores a pixel and its colour, as `PIX.STEP` performs it:
every element of the two spaces it writes, and nothing else but `pc` (R160, R161). -/
theorem exec_pixStep_stores {imm : Byte} {s : State} {g : Gen} {p : Pixel} {c : Color}
    (wf : s.mem.wf s.cfg.pixels = true) (range : imm.toNat < s.cfg.pixels)
    (pixel : s.stepPixel imm.toNat =
      .ok ((({ s with gen := g } : State).setPix imm.toNat p).setLog imm.toNat c)) :
    ∃ (m : Space Pixel) (l : Space Color),
      exec (.pixStep imm) s = .next
        { s with pc := s.pc + 1, gen := g, mem := { s.mem with pix := m, log := l } } ∧
      (∀ j, readElem resetPixel m j = if j = imm.toNat then p else s.pix j) ∧
      (∀ j, readElem Color.black l j = if j = imm.toNat then c else s.log j) := by
  obtain ⟨pix, log⟩ := State.setPix_setLog_reads (s := { s with gen := g }) wf imm.toNat p c
  exact ⟨_, _, exec_pixStep_ok range pixel, pix, log⟩

/-- Settles O28: the pixel's rate and its sum select the transition; the other two do not apply. -/
theorem pixStepTakesOneTransition : Obligations.PixStepTakesOneTransition := by
  rintro imm s p wf range hp
  refine ⟨encode_matches_row (Laws.RowMatch.pixStep imm) rfl 10 rfl rfl, ?_⟩
  by_cases idle : p.rate = 0
  · by_cases seeded : s.seeded = true
    · obtain ⟨m, l, started⟩ := exec_pixStep_stores wf range
        (State.stepPixel_of_idle seeded (hp ▸ idle))
      exact ⟨m, l, fun _ _ => started, absurd idle, absurd idle⟩
    · exact ⟨[], [], fun _ h => absurd h seeded, absurd idle, absurd idle⟩
  · rcases Nat.lt_or_ge (p.phase.toNat + p.rate.toNat) 65536 with below | reached
    · obtain ⟨m, l, faded⟩ := exec_pixStep_stores (g := s.gen) wf range
        (State.stepPixel_of_sum hp.symm idle below)
      exact ⟨m, l, fun h => absurd h idle, fun _ _ => faded,
        fun _ reached => absurd below (Nat.not_lt.2 reached)⟩
    · obtain ⟨m, l, ended⟩ := exec_pixStep_stores (g := s.gen) wf range
        (State.stepPixel_of_carry hp.symm idle reached)
      exact ⟨m, l, fun h => absurd h idle, fun _ below => absurd below (Nat.not_lt.2 reached),
        fun _ _ => ended⟩

/-- Settles O29: the index, then the seed of an IDLE pixel, then no fault at all. -/
theorem pixStepFaults : Obligations.PixStepFaults := by
  refine fun imm s => ⟨exec_pixStep_of_outOfRange, fun range idle unseeded => ?_,
    fun range fading => ?_⟩
  · exact exec_pixStep_error range (State.stepPixel_of_idle_unseeded idle unseeded)
  · obtain ⟨p, c, pixel⟩ := State.stepPixel_of_fading fading
    exact ⟨_, exec_pixStep_ok range pixel, rfl, rfl, rfl⟩

/-! ### The length of a fade -/

/-- A count of FADING steps is below the fade's length exactly when that many additions of the rate stay
below 65536 (R168). -/
theorem lt_fadeLength_iff {r : Nat} (hr : 0 < r) (k : Nat) :
    k < (65536 + r - 1) / r ↔ k * r < 65536 := by
  rw [Nat.lt_iff_add_one_le, Nat.le_div_iff_mul_le hr, Nat.add_mul]
  omega

/-- The colour of a pixel after the `k`-th FADING step of a fade that starts in `s` with rate `r`: black
at its start (R162, R163). -/
def State.fadeColor (s : State) (r k : Nat) : Color :=
  if k = 0 then ⟨0, 0, 0⟩
  else s.cfg.hsv2rgb s.tgtHue s.tgtSat (s.cfg.bright (BitVec.ofNat 16 (k * r)))

/-- In `t` pixel `i` is where a fade that starts in `s` with rate `r` stands after its `k`-th FADING step
(R168). -/
structure State.FadedTo (s : State) (i r k : Nat) (t : State) : Prop where
  cfg : t.cfg = s.cfg
  wf : t.mem.wf t.cfg.pixels = true
  pix : t.pix i = ⟨s.tgtHue, s.tgtSat, BitVec.ofNat 16 (k * r), BitVec.ofNat 16 r⟩
  log : t.log i = s.fadeColor r k

/-- The step that starts a fade is its step 0 (R162). -/
theorem State.fadedTo_fadeStarted {s : State} {i : Nat} (wf : s.mem.wf s.cfg.pixels = true)
    (hi : i < s.cfg.pixels) :
    s.FadedTo i (rateOf (s.cfg.prngNextU32 s.gen).1).toNat 0 (s.fadeStarted i).advance := by
  obtain ⟨pix, log⟩ := State.fadeStarted_same wf i
  exact {
    cfg := rfl
    wf := State.fadeStarted_wf wf hi
    pix := by
      rw [Nat.zero_mul, BitVec.ofNat_toNat, BitVec.setWidth_eq]
      exact pix
    log := log }

/-- A rate that is positive and fits 16 bits is FADING (R23). -/
theorem ofNat_rate_ne_zero {r : Nat} (positive : 0 < r) (fits : r < 65536) :
    BitVec.ofNat 16 r ≠ 0 := by
  intro h
  have := congrArg BitVec.toNat h
  rw [BitVec.toNat_ofNat, Nat.mod_eq_of_lt fits] at this
  exact positive.ne' this

/-- One more FADING step, whose sum stays below 65536 (R163). -/
theorem State.FadedTo.step {s t : State} {imm : Byte} {r k : Nat} (h : s.FadedTo imm.toNat r k t)
    (range : imm.toNat < s.cfg.pixels) (positive : 0 < r) (below : (k + 1) * r < 65536) :
    ∃ u, exec (.pixStep imm) t = .next u ∧ s.FadedTo imm.toNat r (k + 1) u := by
  obtain ⟨cfg, wf, pix, log⟩ := h
  have range' : imm.toNat < t.cfg.pixels := by rwa [cfg]
  have sum : k * r + r < 65536 := by rwa [← Nat.succ_mul]
  have pixel := State.stepPixel_of_sum pix (ofNat_rate_ne_zero positive (by omega)) (by
    rw [BitVec.toNat_ofNat, BitVec.toNat_ofNat]
    omega)
  rw [← BitVec.ofNat_add, ← Nat.succ_mul, cfg] at pixel
  obtain ⟨pix', log'⟩ := State.setPix_setLog_reads wf imm.toNat
    ⟨s.tgtHue, s.tgtSat, BitVec.ofNat 16 ((k + 1) * r), BitVec.ofNat 16 r⟩ (s.fadeColor r (k + 1))
  exact ⟨_, exec_pixStep_ok range' pixel, {
    cfg := cfg
    wf := State.setLog_wf (State.setPix_wf wf range' _) range' _
    pix := (pix' _).trans (if_pos rfl)
    log := (log' _).trans (if_pos rfl) }⟩

/-- The FADING step whose sum reaches 65536 leaves the pixel IDLE and black (R164). -/
theorem State.FadedTo.ends {s t : State} {imm : Byte} {r k : Nat} (h : s.FadedTo imm.toNat r k t)
    (range : imm.toNat < s.cfg.pixels) (positive : 0 < r) (fits : r < 65536)
    (below : k * r < 65536) (reached : 65536 ≤ (k + 1) * r) :
    ∃ u, exec (.pixStep imm) t = .next u ∧ (u.pix imm.toNat).rate = 0 ∧
      u.log imm.toNat = Color.black := by
  obtain ⟨cfg, wf, pix, log⟩ := h
  have sum : 65536 ≤ k * r + r := by rwa [← Nat.succ_mul]
  have pixel := State.stepPixel_of_carry pix (ofNat_rate_ne_zero positive fits) (by
    rw [BitVec.toNat_ofNat, BitVec.toNat_ofNat, Nat.mod_eq_of_lt below, Nat.mod_eq_of_lt fits]
    exact sum)
  obtain ⟨pix', log'⟩ := State.setPix_setLog_reads wf imm.toNat
    ⟨s.tgtHue, s.tgtSat, BitVec.ofNat 16 (k * r), 0⟩ Color.black
  refine ⟨_, exec_pixStep_ok (by rwa [cfg]) pixel, ?_, (log' _).trans (if_pos rfl)⟩
  exact congrArg Pixel.rate ((pix' _).trans (if_pos rfl))

/-- Every step of a fade up to the last that stays below 65536: by induction on the step. -/
theorem execRepeat_fadedTo {s : State} {imm : Byte} {r : Nat} (wf : s.mem.wf s.cfg.pixels = true)
    (range : imm.toNat < s.cfg.pixels) (idle : (s.pix imm.toNat).rate = 0)
    (seeded : s.seeded = true) (hr : r = (rateOf (s.cfg.prngNextU32 s.gen).1).toNat)
    (positive : 0 < r) {k : Nat} (below : k * r < 65536) :
    ∃ t, execRepeat (.pixStep imm) (k + 1) s = .next t ∧ s.FadedTo imm.toNat r k t := by
  induction k with
  | zero =>
    subst hr
    have start : execRepeat (.pixStep imm) 0 s = .next s := rfl
    exact ⟨_, (execRepeat_succ start).trans
      (exec_pixStep_ok range (State.stepPixel_of_idle seeded idle)),
      State.fadedTo_fadeStarted wf range⟩
  | succ k ih =>
    obtain ⟨t, run, faded⟩ := ih (Nat.lt_of_le_of_lt (Nat.mul_le_mul_right r k.le_succ) below)
    obtain ⟨u, last, faded'⟩ := faded.step range positive below
    exact ⟨u, (execRepeat_succ run).trans last, faded'⟩

/-- Settles O34: the fade up to step `len - 1`, and the step after it, whose sum reaches 65536. -/
theorem fadeCycleLength : Obligations.FadeCycleLength := by
  intro imm s r len wf range idle seeded hr hlen
  obtain ⟨floor, mask⟩ := rateOf_bounds (s.cfg.prngNextU32 s.gen).1
  rw [← hr] at floor mask
  have positive : 0 < r := by omega
  have inFade (k : Nat) : k < len ↔ k * r < 65536 := hlen ▸ lt_fadeLength_iff positive k
  have faded {k : Nat} (hk : k < len) :=
    execRepeat_fadedTo wf range idle seeded hr positive ((inFade k).1 hk)
  refine ⟨fun rate => by rw [hlen, rate], fun k hk => ?_, ?_⟩
  · obtain ⟨t, run, fade⟩ := faded hk
    exact ⟨t, run, fade.pix, fade.log⟩
  · obtain ⟨k, rfl⟩ : ∃ k, len = k + 1 :=
      Nat.exists_eq_add_one.2 ((inFade 0).2 (by omega))
    obtain ⟨t, run, fade⟩ := faded k.lt_succ_self
    have reached : 65536 ≤ (k + 1) * r := Nat.not_lt.1 fun h => Nat.lt_irrefl _ ((inFade _).2 h)
    obtain ⟨u, last, black⟩ :=
      fade.ends range positive (by omega) ((inFade k).1 k.lt_succ_self) reached
    exact ⟨u, (execRepeat_succ run).trans last, black⟩

end Sys2Proof.Machine

/-! The composer (43_composer): the reference converter, the mapping onto the wire, and a transmission from
the step that initiates it to the answer that ends it. -/

namespace Sys2Proof

/-! ### The reference converter -/

/-- The value `v` lowered by `k` parts in 255: the form that `p`, `q` and `t` share (R181). -/
def dimmed (v : Byte) (k : Nat) : Byte := BitVec.ofNat 8 (v.toNat * (255 - k) / 255)

/-- The part of `s` that a fraction `m / 255` takes is at most `s`. -/
theorem mul_div_255_le (s : Nat) {m : Nat} (hm : m ≤ 255) : s * m / 255 ≤ s :=
  Nat.div_le_of_le_mul ((Nat.mul_le_mul_left s hm).trans (Nat.mul_comm s 255).le)

/-- Dimming never brightens. -/
theorem dimmed_le (v : Byte) (k : Nat) : (dimmed v k).toNat ≤ v.toNat :=
  calc (dimmed v k).toNat = v.toNat * (255 - k) / 255 % 2 ^ 8 := BitVec.toNat_ofNat _ _
    _ ≤ v.toNat * (255 - k) / 255 := Nat.mod_le _ _
    _ ≤ v.toNat := mul_div_255_le _ (Nat.sub_le 255 k)

/-- Black dimmed is black. -/
theorem dimmed_black (k : Nat) : dimmed 0 k = 0 := by simp [dimmed]

/-- A value dimmed by nothing is that value. -/
theorem dimmed_by_zero (v : Byte) : dimmed v 0 = v := by simp [dimmed]

/-- The position inside a sector is a fraction of 255 (R181). -/
theorem hsvF_le (h : Byte) : hsvF h ≤ 255 := by
  have := Nat.mod_lt (h.toNat * 2) (by decide : 85 > 0)
  rw [hsvF]
  omega

/-- In every sector one channel is the value itself and the other two are the value dimmed by at most the
saturation (R181). -/
theorem hsv2rgbRef_cases (h s v : Byte) :
    ∃ j k : Nat, j ≤ s.toNat ∧ k ≤ s.toNat ∧
      (hsv2rgbRef h s v = ⟨v, dimmed v j, dimmed v k⟩ ∨
       hsv2rgbRef h s v = ⟨dimmed v j, v, dimmed v k⟩ ∨
       hsv2rgbRef h s v = ⟨dimmed v j, dimmed v k, v⟩) := by
  have p : s.toNat ≤ s.toNat := le_rfl
  have q : s.toNat * hsvF h / 255 ≤ s.toNat := mul_div_255_le _ (hsvF_le h)
  have t : s.toNat * (255 - hsvF h) / 255 ≤ s.toNat := mul_div_255_le _ (Nat.sub_le _ _)
  simp only [hsv2rgbRef]
  split_ifs
  · exact ⟨_, _, t, p, .inl rfl⟩
  · exact ⟨_, _, q, p, .inr (.inl rfl)⟩
  · exact ⟨_, _, p, t, .inr (.inl rfl)⟩
  · exact ⟨_, _, p, q, .inr (.inr rfl)⟩
  · exact ⟨_, _, t, p, .inr (.inr rfl)⟩
  · exact ⟨_, _, p, q, .inl rfl⟩
  · exact ⟨_, _, t, p, .inl rfl⟩

/-- Value 0 is black (R182 (a)). -/
theorem hsv2rgbRef_value_zero (h s : Byte) : hsv2rgbRef h s 0 = ⟨0, 0, 0⟩ := by
  obtain ⟨j, k, _, _, colour | colour | colour⟩ := hsv2rgbRef_cases h s 0 <;>
    rw [colour, dimmed_black, dimmed_black]

/-- Saturation 0 is grey: nothing is dimmed (R182 (b)). -/
theorem hsv2rgbRef_saturation_zero (h v : Byte) : hsv2rgbRef h 0 v = ⟨v, v, v⟩ := by
  obtain ⟨j, k, hj, hk, colour⟩ := hsv2rgbRef_cases h 0 v
  obtain rfl := Nat.le_zero.1 hj
  obtain rfl := Nat.le_zero.1 hk
  rw [dimmed_by_zero] at colour
  obtain colour | colour | colour := colour <;> exact colour

/-- Every channel is at most the value, and one is the value (R182 (c)). -/
theorem hsv2rgbRef_le_value (h s v : Byte) :
    (hsv2rgbRef h s v).r.toNat ≤ v.toNat ∧ (hsv2rgbRef h s v).g.toNat ≤ v.toNat ∧
    (hsv2rgbRef h s v).b.toNat ≤ v.toNat ∧
    ((hsv2rgbRef h s v).r = v ∨ (hsv2rgbRef h s v).g = v ∨ (hsv2rgbRef h s v).b = v) := by
  obtain ⟨j, k, _, _, colour | colour | colour⟩ := hsv2rgbRef_cases h s v <;> rw [colour]
  · exact ⟨le_rfl, dimmed_le v j, dimmed_le v k, .inl rfl⟩
  · exact ⟨dimmed_le v j, le_rfl, dimmed_le v k, .inr (.inl rfl)⟩
  · exact ⟨dimmed_le v j, dimmed_le v k, le_rfl, .inr (.inr rfl)⟩

/-- Full saturation leaves nothing of the value in `p` (R182 (d)). -/
theorem hsvP_saturation_full (v : Byte) : hsvP 255 v = 0 := by simp [hsvP]

/-- The last hue closes the circle: it stands at position 0 of the first sector, as hue 0 does
(R182 (e)). -/
theorem hsv2rgbRef_hue_255 (s v : Byte) : hsv2rgbRef 255 s v = hsv2rgbRef 0 s v := by
  have position : hsvF 255 = hsvF 0 := rfl
  calc hsv2rgbRef 255 s v = ⟨v, BitVec.ofNat 8 (hsvT 255 s v), BitVec.ofNat 8 (hsvP s v)⟩ := rfl
    _ = ⟨v, BitVec.ofNat 8 (hsvT 0 s v), BitVec.ofNat 8 (hsvP s v)⟩ := by rw [hsvT, hsvT, position]
    _ = hsv2rgbRef 0 s v := rfl

/-- Settles O35: (a) to (e) as stated above, and the ten worked colours of (f) by evaluation. -/
theorem referenceConverterProperties : Obligations.ReferenceConverterProperties :=
  ⟨hsv2rgbRef_value_zero, hsv2rgbRef_saturation_zero, hsv2rgbRef_le_value, hsvP_saturation_full,
    hsv2rgbRef_hue_255, by decide⟩

end Sys2Proof

namespace Sys2Proof.Machine

/-! ### `FRM.COMPOSE` -/

/-- After a frame is composed, every entry of `OUT` below `N` (R184). -/
theorem State.composeFrame_out {s : State} {i : Nat} (hi : i < s.cfg.pixels) :
    s.composeFrame.out i = s.cfg.composeColor (s.log i) :=
  (readElem_tabulateOut _ _ i).trans (if_pos hi)

/-- Settles O36: the new `OUT` is the composed frame's, and the default advance follows. -/
theorem composeMapsEveryPixel : Obligations.ComposeMapsEveryPixel :=
  fun s => ⟨rfl, s.composeFrame.mem.out, rfl, fun _ => State.composeFrame_out⟩

/-! ### `FRM.XMIT` -/

/-- With no frame in flight `FRM.XMIT` hands one over (R187). -/
theorem exec_frmXmit_of_idle {s : State} (h : s.txst = .idle) :
    exec .frmXmit s = .next s.initiate := by
  simp only [exec, execFrmXmit, h]

/-- A frame that was sent frees the transmitter, and `pc` moves on (R187). -/
theorem exec_frmXmit_of_doneOk {s : State} (h : s.txst = .doneOk) :
    exec .frmXmit s = .next (State.advance { s with txst := .idle }) := by
  simp only [exec, execFrmXmit, h]

/-- A frame that was not sent is a fault (R187). -/
theorem exec_frmXmit_of_doneFail {s : State} (h : s.txst = .doneFail) :
    exec .frmXmit s = .next (s.raise .transmissionFailure) := by
  simp only [exec, execFrmXmit, h]

/-- Settles O38: one rule for each value of `TXST`. -/
theorem xmitStep : Obligations.XmitStep :=
  fun _ => ⟨rfl, exec_frmXmit_of_idle, exec_frmXmit_of_busy, exec_frmXmit_of_doneOk,
    exec_frmXmit_of_doneFail⟩

/-! ### The transmitter's answer -/

/-- The transmitter reports a frame in flight as sent (R188). -/
theorem State.txStep_of_ok {s : State} (busy : s.txst = .busy) (answer : s.txAnswer = .ok) :
    s.txStep = { s with txst := .doneOk, txAnswers := s.txAnswers.next } := by
  simp only [State.txStep, busy, answer]

/-- The transmitter reports a frame in flight as not sent (R188). -/
theorem State.txStep_of_fail {s : State} (busy : s.txst = .busy) (answer : s.txAnswer = .fail) :
    s.txStep = { s with txst := .doneFail, txAnswers := s.txAnswers.next } := by
  simp only [State.txStep, busy, answer]

/-- Settles O11: the turn is the transmitter's, which reports what the collaborator answered. -/
theorem txTurnAnswersTheTransmission : Obligations.TxTurnAnswersTheTransmission := by
  intro s hc ht busy
  rw [step_of_tx_turn hc ht]
  exact ⟨fun ok => congrArg _ (State.txStep_of_ok (s := s.turnTaken) busy ok),
    fun fail => congrArg _ (State.txStep_of_fail (s := s.turnTaken) busy fail)⟩

end Sys2Proof.Machine

/-! The scheduler (44_scheduler): the turn of the sequencer and the words it runs, the four operations of the
SCH unit, a pass of `SCH.STEPALL` over all pixels, and the loop of the reference microprogram. -/

namespace Sys2Proof.Machine

/-! ### The word a turn of the sequencer runs -/

/-- In an accepted configuration a turn of a running sequencer is the operation its word decodes to (R200). -/
theorem step_of_decode {s : State} {i : Instr} (hc : s.cfg.accepted = true) (ht : s.turn = .seq)
    (running : s.halted = false) (h : decode s.fetch = .ok i) : step s = exec i s.turnTaken :=
  (step_of_seq_turn hc ht).trans (seqTurn_of_decode (s := s.turnTaken) running h)

/-- Settles O7: the turn is the sequencer's, and taking it from the schedule does not move the word. -/
theorem stepRunsTheDecodedInstruction : Obligations.StepRunsTheDecodedInstruction :=
  fun _ _ => step_of_decode

/-- A word that the opcode table reads as an operation decodes to it (R93). -/
theorem decode_of_decodeTableWord {w : Nat} {i : Instr} (fits : w < 2 ^ 16)
    (h : decodeTableWord 16 w = some i) : decode (BitVec.ofNat 16 w) = .ok i := by
  have bound : w < 65536 := fits
  rw [decodeTableWord, Nat.mod_eq_of_lt fits, if_pos bound] at h
  split at h
  · rwa [← Option.some.inj h]
  · cases h

/-- What `withFetchWord` places: the word at `PROG[pc]`, and one turn of the sequencer. -/
theorem State.withFetchWord_eq (s : State) {w : Nat} (fits : w < 2 ^ 16) :
    s.withFetchWord 16 w = { s with
      cfg := s.cfg.withProgWord s.pc.toNat (BitVec.ofNat 16 w)
      schedule := ⟨.seq :: s.schedule.script, s.schedule.taken⟩ } := by
  rw [State.withFetchWord, Nat.mod_eq_of_lt fits]

/-- Settles O8: the placed word is fetched, the laid-out turn is the sequencer's, and the rest is a frame. -/
theorem placedWordRunsNext : Obligations.PlacedWordRunsNext := by
  intro s w i hc running canon fits word
  have prog (k : Nat) := progWord_withProgWord canon s.pc.toNat k (BitVec.ofNat 16 w)
  have fetched : (s.cfg.withProgWord s.pc.toNat (BitVec.ofNat 16 w)).progWord s.pc.toNat =
      BitVec.ofNat 16 w := (prog _).trans (if_pos rfl)
  have decoded := decode_of_decodeTableWord fits word
  refine ⟨_, rfl, ?_, fetched, fun k hk => (prog k).trans (if_neg hk), rfl⟩
  rw [s.withFetchWord_eq fits]
  exact step_of_decode hc rfl running ((congrArg decode fetched).trans decoded)

/-! ### `SEQ.JMP` and `SEQ.HALT` -/

/-- Settles O18: the target is the immediate, and the word is the row's pattern under its mask. -/
theorem seqJmpWritesPc : Obligations.SeqJmpWritesPc :=
  fun imm _ => ⟨encode_matches_row (Laws.RowMatch.seqJmp imm) rfl 0 rfl rfl, rfl⟩

/-- A halted sequencer has no enabled step (R200). -/
theorem State.seqEnabled_of_halted {s : State} (h : s.halted = true) : s.seqEnabled = false := by
  rw [State.seqEnabled, h]
  rfl

/-- Settles O19: the one answer is a halted state. -/
theorem seqHaltStopsTheSequencer : Obligations.SeqHaltStopsTheSequencer := by
  refine fun s => ⟨rfl, rfl, fun t h => ?_⟩
  cases h
  exact State.seqEnabled_of_halted rfl

/-! ### New targets -/

/-- A new target of a seeded source, its two draws named in their order (R203). -/
theorem State.newTarget_of_draws {s : State} {d1 d2 : Word} {g1 g2 : Gen} (seeded : s.seeded = true)
    (first : s.cfg.prngNextU32 s.gen = (d1, g1)) (second : s.cfg.prngNextU32 g1 = (d2, g2))
    (w : Word) :
    s.newTarget w = .ok { s.setX .x0 w with
      gen := g2
      tgtHue := d1.extractLsb' 0 8
      tgtSat := s.cfg.satlut.at (d2.extractLsb' 0 8) } := by
  rw [State.newTarget_seeded seeded, first, second]

/-- An unseeded source faults before the first draw (R203). -/
theorem State.newTarget_unseeded {s : State} (unseeded : s.seeded = false) (w : Word) :
    s.newTarget w = .error .rngNotSeeded := by
  rw [State.newTarget, State.draw32_unseeded unseeded]

/-- Settles O39: the outcome is that of the new target. -/
theorem retargetDrawsHueThenSaturation : Obligations.RetargetDrawsHueThenSaturation := by
  intro s d1 d2 g1 g2 first second
  refine ⟨rfl, fun seeded => ?_, fun unseeded => ?_⟩
  · rw [exec, execSchRetarget, State.newTarget_of_draws seeded first second]
    rfl
  · rw [exec, execSchRetarget, State.newTarget_unseeded unseeded]
    rfl

/-- A refresh that is not due only advances, seeded or not (R204). -/
theorem exec_schRefresh_of_early {s : State}
    (early : (s.elapsed (s.x .x0)).toNat < s.cfg.refreshTicks.toNat) :
    exec .schRefresh s = .next s.advance := by
  rw [exec, execSchRefresh, if_neg (Nat.not_le.2 early)]
  rfl

/-- A refresh that is due does what `SCH.RETARGET` does (R204). -/
theorem exec_schRefresh_of_due {s : State}
    (due : s.cfg.refreshTicks.toNat ≤ (s.elapsed (s.x .x0)).toNat) :
    exec .schRefresh s = exec .schRetarget s := by
  simp only [exec, execSchRefresh, execSchRetarget, if_pos due]

/-- Settles O40: a refresh that is due is a `SCH.RETARGET`, at the same clock reading. -/
theorem refreshWhenDue : Obligations.RefreshWhenDue := by
  rintro s _ d1 d2 g1 g2 rfl first second
  obtain ⟨_, retargeted, faulted⟩ := retargetDrawsHueThenSaturation s d1 d2 g1 g2 first second
  exact ⟨rfl, exec_schRefresh_of_early,
    fun due seeded => (exec_schRefresh_of_due due).trans (retargeted seeded),
    fun due unseeded => (exec_schRefresh_of_due due).trans (faulted unseeded)⟩

/-! ### `SCH.WAIT` -/

/-- A poll that is met advances (R208). -/
theorem exec_schWait_of_met {s : State}
    (met : s.cfg.frameMinTicks.toNat ≤ (s.elapsed (s.x .x1)).toNat) :
    exec .schWait s = .next s.advance := by
  rw [exec, execSchWait, if_pos met]

/-- A poll that is not met changes nothing (R208). -/
theorem exec_schWait_of_early {s : State}
    (early : (s.elapsed (s.x .x1)).toNat < s.cfg.frameMinTicks.toNat) :
    exec .schWait s = .next s := by
  rw [exec, execSchWait, if_neg (Nat.not_le.2 early)]

/-- Settles O44: the clock is read as `NOW()`. -/
theorem waitPollsTheClock : Obligations.WaitPollsTheClock := by
  rintro s _ rfl
  exact ⟨rfl, exec_schWait_of_met, exec_schWait_of_early⟩

/-! ### One step of `SCH.STEPALL` -/

/-- A pixel that is FADING, or has a seed to start from, can be stepped (R161). -/
theorem State.stepPixel_answers {s : State} {i : Nat}
    (ready : s.seeded = true ∨ (s.pix i).rate ≠ 0) : ∃ u, s.stepPixel i = .ok u := by
  cases answer : s.stepPixel i with
  | ok u => exact ⟨u, rfl⟩
  | error e =>
    obtain ⟨idle, unseeded, _⟩ := State.stepPixel_error answer
    rcases ready with seeded | fading
    · exact nomatch seeded.symm.trans unseeded
    · exact absurd idle fading

/-- A pixel step keeps the canonical form of the memory. -/
theorem State.stepPixel_wf {s u : State} {i n : Nat} (wf : s.mem.wf n = true) (hi : i < n)
    (h : s.stepPixel i = .ok u) : u.mem.wf n = true := by
  obtain ⟨pix, log, out, seedbuf⟩ := (Memory.wf_iff _ _).1 wf
  obtain ⟨p, c, g, rfl, _⟩ := State.stepPixel_writes h
  exact (Memory.wf_iff _ _).2 ⟨canonFrom_writeElem resetPixel pix hi (Nat.zero_le i) p,
    canonFrom_writeElem Color.black log hi (Nat.zero_le i) c, out, seedbuf⟩

/-- At the last pixel `SCH.STEPALL` returns to pixel 0 and leaves the operation (R206). -/
theorem exec_schStepall_of_last {s u : State} (pixel : s.stepPixel s.pidx.toNat = .ok u)
    (last : s.pidx.toNat + 1 = s.cfg.pixels) :
    exec .schStepall s = .next { u with pidx := 0, pc := u.pc + 1 } :=
  (exec_schStepall_ok (last ▸ Nat.lt_succ_self _) pixel).trans (congrArg _ (if_pos last))

/-- Before the last pixel `SCH.STEPALL` moves to the next one and stays (R206). -/
theorem exec_schStepall_of_more {s u : State} (pixel : s.stepPixel s.pidx.toNat = .ok u)
    (more : s.pidx.toNat + 1 < s.cfg.pixels) :
    exec .schStepall s = .next { u with pidx := s.pidx + 1 } :=
  (exec_schStepall_ok (Nat.lt_of_succ_lt more) pixel).trans (congrArg _ (if_neg more.ne))

/-- A step of `SCH.STEPALL` whose pixel cannot be stepped is that fault (R206, R234). -/
theorem exec_schStepall_error {s : State} {e : Exc} (range : s.pidx.toNat < s.cfg.pixels)
    (pixel : s.stepPixel s.pidx.toNat = .error e) : exec .schStepall s = .next (s.raise e) := by
  simp only [exec, execSchStepall, if_pos range, State.stepNext, pixel, State.settle]

/-- Settles O41: both operations step the same pixel; they differ in what they do to `pc` and `PIDX`. -/
theorem stepallStepsThePixelAtPidx : Obligations.StepallStepsThePixelAtPidx := by
  intro s range
  refine ⟨rfl, fun ready => ?_, fun unseeded idle => ?_⟩
  · obtain ⟨u, pixel⟩ := State.stepPixel_answers ready
    refine ⟨_, exec_pixStep_ok range pixel, fun last => ?_, fun more => ?_⟩
    · exact exec_schStepall_of_last pixel (by omega)
    · rw [exec_schStepall_of_more pixel (by omega)]
      obtain ⟨_, _, _, rfl, _⟩ := State.stepPixel_writes pixel
      rfl
  · exact exec_schStepall_error range (State.stepPixel_of_idle_unseeded idle unseeded)

/-! ### A pass of `SCH.STEPALL` -/

/-- A pixel stepped in the pass stays so while it and its colour are kept. -/
theorem State.steppedInPass.keep {s t t' : State} {j : Nat} (h : s.steppedInPass j t)
    (pix : t'.pix j = t.pix j) (log : t'.log j = t.log j) : s.steppedInPass j t' := by
  obtain ⟨u, v, run, atJ, foundPix, foundLog, pixel, gavePix, gaveLog⟩ := h
  exact ⟨u, v, run, atJ, foundPix, foundLog, pixel, pix.trans gavePix, log.trans gaveLog⟩

/-- `t` is where `n` steps of a pass of `SCH.STEPALL` from `s` have led (R206, R207): inside the pass the
operation stays at `pc` with pixel `n` next, and after its last pixel it has been left. -/
structure State.PassReached (s : State) (n : Nat) (t : State) : Prop where
  cfg : t.cfg = s.cfg
  wf : t.mem.wf t.cfg.pixels = true
  seeded : t.seeded = true
  halted : t.halted = s.halted
  inside : n < s.cfg.pixels → t.pidx.toNat = n ∧ t.pc = s.pc
  left : n = s.cfg.pixels → t.pidx = 0 ∧ t.pc = s.pc + 1
  waiting : ∀ j, n ≤ j → t.pix j = s.pix j ∧ t.log j = s.log j
  stepped : ∀ j, j < n → s.steppedInPass j t

/-- The step of the pass for pixel `n` moves on to the next pixel, or after the last one leaves the
operation, and adds nothing to the step of the pixel but that (R206). -/
theorem exec_schStepall_in_pass {s u : State} {n : Nat} (size : s.cfg.pixels ≤ 256)
    (atN : s.pidx.toNat = n) (hn : n < s.cfg.pixels) (pixel : s.stepPixel n = .ok u) :
    ∃ p q : Byte, exec .schStepall s = .next { u with pc := p, pidx := q } ∧
      (n + 1 < s.cfg.pixels → q.toNat = n + 1 ∧ p = s.pc) ∧
      (n + 1 = s.cfg.pixels → q = 0 ∧ p = s.pc + 1) := by
  subst atN
  have pc : u.pc = s.pc := by
    obtain ⟨_, _, _, rfl, _⟩ := State.stepPixel_writes pixel
    rfl
  rcases Nat.lt_or_eq_of_le (Nat.succ_le_of_lt hn) with more | last
  · exact ⟨_, _, exec_schStepall_of_more pixel more,
      fun _ => ⟨BitVec.toNat_add_of_lt (y := 1#8) (more.trans_le size), pc⟩,
      fun last => absurd last more.ne⟩
  · exact ⟨_, _, exec_schStepall_of_last pixel last, fun more => absurd last more.ne,
      fun _ => ⟨rfl, congrArg (· + 1) pc⟩⟩

/-- One more step of the pass steps the pixel at `PIDX` and keeps the pixels stepped before it. -/
theorem State.PassReached.step {s t : State} {n : Nat} (h : s.PassReached n t)
    (run : execRepeat .schStepall n s = .next t) (size : s.cfg.pixels ≤ 256)
    (hn : n < s.cfg.pixels) : ∃ u, exec .schStepall t = .next u ∧ s.PassReached (n + 1) u := by
  obtain ⟨cfg, wf, seeded, halted, inside, _, waiting, stepped⟩ := h
  obtain ⟨atN, pc⟩ := inside hn
  have range : n < t.cfg.pixels := by rwa [cfg]
  obtain ⟨v, pixel⟩ := State.stepPixel_answers (i := n) (.inl seeded)
  have others (j : Nat) (hj : j ≠ n) := State.stepPixel_others wf pixel hj
  have wf' := State.stepPixel_wf wf range pixel
  have kept : v.cfg = t.cfg ∧ v.seeded = t.seeded ∧ v.halted = t.halted := by
    obtain ⟨_, _, _, rfl, _⟩ := State.stepPixel_writes pixel
    exact ⟨rfl, rfl, rfl⟩
  obtain ⟨keptCfg, keptSeeded, keptHalted⟩ := kept
  obtain ⟨p, q, answer, more, last⟩ := exec_schStepall_in_pass (by rwa [cfg]) atN range pixel
  rw [cfg, pc] at more last
  exact ⟨_, answer, {
    cfg := keptCfg.trans cfg
    wf := keptCfg ▸ wf'
    seeded := keptSeeded.trans seeded
    halted := keptHalted.trans halted
    inside := more
    left := last
    waiting := fun j hj => by
      obtain ⟨pix, log⟩ := others j (Nat.lt_of_succ_le hj).ne'
      obtain ⟨foundPix, foundLog⟩ := waiting j (Nat.le_of_succ_le hj)
      exact ⟨pix.trans foundPix, log.trans foundLog⟩
    stepped := fun j hj => by
      rcases Nat.lt_succ_iff_lt_or_eq.1 hj with before | rfl
      · obtain ⟨pix, log⟩ := others j before.ne
        exact (stepped j before).keep pix log
      · obtain ⟨foundPix, foundLog⟩ := waiting j le_rfl
        exact ⟨t, v, run, atN, foundPix, foundLog, pixel, rfl, rfl⟩ }⟩

/-- Any number of steps up to the whole pass: by induction on their number. -/
theorem execRepeat_passReached {s : State} (wf : s.mem.wf s.cfg.pixels = true)
    (nonempty : 1 ≤ s.cfg.pixels) (size : s.cfg.pixels ≤ 256) (seeded : s.seeded = true)
    (first : s.pidx = 0) {n : Nat} (hn : n ≤ s.cfg.pixels) :
    ∃ t, execRepeat .schStepall n s = .next t ∧ s.PassReached n t := by
  induction n with
  | zero =>
    exact ⟨s, rfl, {
      cfg := rfl
      wf := wf
      seeded := seeded
      halted := rfl
      inside := fun _ => ⟨congrArg BitVec.toNat first, rfl⟩
      left := fun empty => absurd empty (Nat.ne_of_lt nonempty)
      waiting := fun _ _ => ⟨rfl, rfl⟩
      stepped := fun _ below => absurd below (Nat.not_lt_zero _) }⟩
  | succ n ih =>
    obtain ⟨t, run, reached⟩ := ih (Nat.le_of_succ_le hn)
    obtain ⟨u, last, reached'⟩ := reached.step run size hn
    exact ⟨u, (execRepeat_succ run).trans last, reached'⟩

/-- Settles O42: where the pass stands after `k` steps, and after all of them. -/
theorem stepallPassVisitsEveryPixel : Obligations.StepallPassVisitsEveryPixel := by
  intro s wf nonempty size seeded first
  constructor
  · intro k hk
    obtain ⟨t, run, reached⟩ := execRepeat_passReached wf nonempty size seeded first hk.le
    obtain ⟨pidx, pc⟩ := reached.inside hk
    exact ⟨t, run, pidx, pc, reached.waiting, reached.stepped⟩
  · obtain ⟨t, run, reached⟩ := execRepeat_passReached wf nonempty size seeded first le_rfl
    obtain ⟨pidx, pc⟩ := reached.left rfl
    exact ⟨t, run, pidx, pc, reached.halted, reached.waiting, reached.stepped⟩

/-! ### The reference microprogram -/

/-- The operations of the reference microprogram, from `pc` 0 to 9 (R214). -/
def referenceOp : Nat → Instr
  | 0 => .clkInit
  | 1 => .rngSeed
  | 2 => .schRetarget
  | 3 => .clkNow .x1
  | 4 => .schRefresh
  | 5 => .schStepall
  | 6 => .schWait
  | 7 => .frmCompose
  | 8 => .frmXmit
  | _ => .seqJmp 4

/-- The ten words of the reference microprogram decode to its operations (R214). -/
theorem decode_referenceProg :
    ∀ k ≤ 9, decode (readElem 0 referenceProg k) = .ok (referenceOp k) := by
  decide

/-- The word fetched under the reference microprogram is one of its operations (R200, R214). -/
theorem State.decode_reference {s : State} (ref : s.cfg.prog = referenceProg) (range : s.pc.toNat ≤ 9) :
    decode s.fetch = .ok (referenceOp s.pc.toNat) := by
  rw [State.fetch, Cfg.progWord, ref]
  exact decode_referenceProg _ range

/-- A turn of the sequencer under the reference microprogram passes or runs its next operation. -/
theorem seqTurn_reference {s t : State} (ref : s.cfg.prog = referenceProg) (range : s.pc.toNat ≤ 9)
    (h : seqTurn s = .next t) : t = s ∨ exec (referenceOp s.pc.toNat) s = .next t := by
  cases halt : s.halted with
  | true =>
    rw [seqTurn_of_halted halt] at h
    cases h
    exact .inl rfl
  | false => exact .inr (seqTurn_of_decode halt (State.decode_reference ref range) ▸ h)

/-- Where an operation leaves `pc` and `FAULT`: at its own fault, which is `IllegalOperation` only for
`RNG.U64`; or with `FAULT` as it was, at the same word, the next word or the target of a jump (R201, R211,
R234). -/
theorem exec_pc_fault {i : Instr} {s t : State} (h : exec i s = .next t) :
    (t.pc = s.pc ∧ ∃ e : Exc, t.fault = e.code ∧ (e = .illegalOperation → ∃ rd, i = .rngU64 rd)) ∨
    (t.fault = s.fault ∧ (t.pc = s.pc ∨ t.pc = s.pc + 1 ∨ ∃ imm, i = .seqJmp imm ∧ t.pc = imm)) := by
  cases exec_answered h with
  | raised e en ro _ _ illegal answer =>
    subst answer
    exact .inl ⟨rfl, e, rfl, illegal⟩
  | jumped imm op answer =>
    subst answer
    exact .inr ⟨rfl, .inr (.inr ⟨imm, op, rfl⟩)⟩
  | halted _ answer | retried _ _ answer | initiated _ _ answer | held _ _ answer
  | polled _ answer =>
    subst answer
    exact .inr ⟨rfl, .inl rfl⟩
  | started _ _ answer | wrote _ _ _ _ _ answer | composed _ answer | sent _ _ answer
  | targeted _ _ _ _ answer | passed _ answer =>
    subst answer
    exact .inr ⟨rfl, .inr (.inl rfl)⟩
  | sampled w _ _ _ answer =>
    subst answer
    rw [State.acceptSample]
    split
    · exact .inr ⟨rfl, .inr (.inl rfl)⟩
    · exact .inr ⟨rfl, .inl rfl⟩
  | stepped imm _ _ u pixel answer =>
    obtain ⟨_, _, _, rfl, _⟩ := State.stepPixel_writes pixel
    subst answer
    exact .inr ⟨rfl, .inr (.inl rfl)⟩
  | steppedNext _ _ u pixel answer =>
    obtain ⟨_, _, _, rfl, _⟩ := State.stepPixel_writes pixel
    subst answer
    split
    · exact .inr ⟨rfl, .inr (.inl rfl)⟩
    · exact .inr ⟨rfl, .inl rfl⟩

/-- The reference microprogram jumps nowhere but at its last word, and has no `RNG.U64` (R214). -/
theorem referenceOp_cases (k : Nat) :
    (∀ rd, referenceOp k ≠ .rngU64 rd) ∧ (k < 9 → ∀ imm, referenceOp k ≠ .seqJmp imm) :=
  match k with
  | 0 | 1 | 2 | 3 | 4 | 5 | 6 | 7 | 8 => ⟨fun _ => nofun, fun _ _ => nofun⟩
  | k + 9 => ⟨fun _ => nofun, fun below => absurd below (by omega)⟩

/-- `IllegalOperation` alone has code 5 (R231). -/
theorem Exc.eq_illegalOperation_of_code {e : Exc} (h : e.code = 5) : e = .illegalOperation := by
  cases e with
  | illegalOperation => rfl
  | _ => exact absurd h (by decide)

/-- An operation of the reference microprogram keeps `pc`, moves to the next word, or jumps from the last
one back to the head of the loop (R214, R215). -/
theorem exec_referenceOp_pc {s t : State} (range : s.pc.toNat ≤ 9)
    (h : exec (referenceOp s.pc.toNat) s = .next t) :
    t.pc.toNat = s.pc.toNat ∨ (s.pc.toNat < 9 ∧ t.pc.toNat = s.pc.toNat + 1) ∨
      (s.pc.toNat = 9 ∧ t.pc.toNat = 4) := by
  rcases Nat.lt_or_eq_of_le range with inside | atJump
  · obtain ⟨_, noJump⟩ := referenceOp_cases s.pc.toNat
    obtain ⟨stay, _⟩ | ⟨_, stay | next | ⟨imm, jump, _⟩⟩ := exec_pc_fault h
    · exact .inl (congrArg _ stay)
    · exact .inl (congrArg _ stay)
    · exact .inr (.inl ⟨inside, by rw [next]; bv_omega⟩)
    · exact absurd jump (noJump inside imm)
  · rw [atJump] at h
    cases h
    exact .inr (.inr ⟨atJump, rfl⟩)

/-- No operation of the reference microprogram takes `IllegalOperation` (R215). -/
theorem exec_referenceOp_fault {s t : State} {k : Nat} (h : exec (referenceOp k) s = .next t)
    (legal : s.fault ≠ 5) : t.fault ≠ 5 := by
  obtain ⟨noPair, _⟩ := referenceOp_cases k
  obtain ⟨_, e, code, illegal⟩ | ⟨kept, _⟩ := exec_pc_fault h
  · intro five
    obtain ⟨rd, pair⟩ := illegal (Exc.eq_illegalOperation_of_code (code.symm.trans five))
    exact noPair rd pair
  · rwa [kept]

/-! ### The loop of the reference microprogram -/

/-- A tick moves neither `pc`, `FAULT`, a register nor `TXST` (R121). -/
theorem State.tick_frame (s : State) :
    s.tick.pc = s.pc ∧ s.tick.fault = s.fault ∧ s.tick.regs = s.regs ∧ s.tick.txst = s.txst := by
  rcases s.tick_cases with ⟨_, answer⟩ | ⟨_, answer⟩ <;> rw [answer] <;> exact ⟨rfl, rfl, rfl, rfl⟩

/-- The transmitter's turn moves neither `pc`, `FAULT` nor a register, and does not return `TXST` to IDLE
(R188). -/
theorem State.txStep_frame (s : State) :
    s.txStep.pc = s.pc ∧ s.txStep.fault = s.fault ∧ s.txStep.regs = s.regs ∧
      (s.txst ≠ .idle → s.txStep.txst ≠ .idle) := by
  rcases s.txStep_cases with ⟨_, answer⟩ | ⟨_, answer⟩ <;> rw [answer]
  · exact ⟨rfl, rfl, rfl, fun _ => by cases s.txAnswer <;> nofun⟩
  · exact ⟨rfl, rfl, rfl, id⟩

/-- Settles O56: the sequencer follows the ten words, the other agents do not move `pc`, and the host's
reset moves it to 0. -/
theorem referenceProgramStaysInItsLoop : Obligations.ReferenceProgramStaysInItsLoop := by
  intro s t ref range legal h
  refine ⟨noStepChangesTheConfiguration s t h ▸ ref, ?_⟩
  obtain ⟨_, ⟨_, hseq⟩ | ⟨_, rfl⟩ | ⟨_, rfl⟩ | ⟨reset, rfl⟩⟩ := step_cases h
  · obtain rfl | hexec := seqTurn_reference (s := s.turnTaken) ref range hseq
    · exact ⟨range, legal, fun loop _ => loop⟩
    · have fault := exec_referenceOp_fault hexec legal
      obtain stay | ⟨inside, next⟩ | ⟨atJump, back⟩ := exec_referenceOp_pc (s := s.turnTaken) range hexec
      · rw [stay]
        exact ⟨range, fault, fun loop _ => loop⟩
      · rw [next]
        exact ⟨inside, fault, fun loop _ => Nat.le_succ_of_le loop⟩
      · rw [back]
        exact ⟨by decide, fault, fun _ _ => le_rfl⟩
  · obtain ⟨pc, fault, _, _⟩ := s.turnTaken.tick_frame
    rw [pc, fault]
    exact ⟨range, legal, fun loop _ => loop⟩
  · obtain ⟨pc, fault, _, _⟩ := s.turnTaken.txStep_frame
    rw [pc, fault]
    exact ⟨range, legal, fun loop _ => loop⟩
  · exact ⟨Nat.zero_le 9, nofun, fun _ noReset => absurd reset noReset⟩

/-! ### The spacing of frames -/

/-- `t` lies in the loop after the initiation at `s`, and the wait of the next frame has not been passed: the
sequencer is before that wait, or still at the initiating `FRM.XMIT` or the jump after it, and `x1` holds
the time of the initiation (R187, R208, R214). -/
structure State.BeforeWaitPasses (s t : State) : Prop where
  cfg : t.cfg = s.cfg
  recorded : t.x .x1 = s.cnt
  places : t.pc.toNat = 4 ∨ t.pc.toNat = 5 ∨ t.pc.toNat = 6 ∨ t.pc.toNat = 8 ∨ t.pc.toNat = 9
  unfinished : t.pc.toNat = 8 → t.txst ≠ .idle

/-- A step of `FRM.XMIT` that finds a transmission not yet concluded leaves `x1` alone, and moves on where it
concludes the transmission (R187). -/
theorem exec_frmXmit_of_not_idle {s t : State} (unfinished : s.txst ≠ .idle)
    (h : exec .frmXmit s = .next t) : t.x .x1 = s.x .x1 ∧ (t.txst ≠ .idle ∨ t.pc = s.pc + 1) := by
  cases found : s.txst with
  | idle => exact absurd found unfinished
  | busy =>
    cases (exec_frmXmit_of_busy found).symm.trans h
    exact ⟨rfl, .inl unfinished⟩
  | doneOk =>
    cases (exec_frmXmit_of_doneOk found).symm.trans h
    exact ⟨rfl, .inr rfl⟩
  | doneFail =>
    cases (exec_frmXmit_of_doneFail found).symm.trans h
    exact ⟨rfl, .inl unfinished⟩

section Spacing
variable {s t u : State}

/-- An operation of the loop that is neither the wait nor `FRM.XMIT` does not get past the wait. -/
theorem State.BeforeWaitPasses.moves (h : s.BeforeWaitPasses t)
    (hexec : exec (referenceOp t.pc.toNat) t = .next u) (notWait : t.pc.toNat ≠ 6)
    (notXmit : t.pc.toNat ≠ 8) (unwritten : .x1 ∉ (referenceOp t.pc.toNat).destinations) :
    s.BeforeWaitPasses u := by
  obtain ⟨cfg, recorded, places, _⟩ := h
  have moved := exec_referenceOp_pc (by omega) hexec
  exact {
    cfg := (exec_cfg hexec).trans cfg
    recorded := ((exec_framed hexec).registers .x1 unwritten).trans recorded
    places := by omega
    unfinished := fun atXmit => by omega }

/-- The `FRM.XMIT` that initiated does not get past the wait (R187). -/
theorem State.BeforeWaitPasses.xmit (h : s.BeforeWaitPasses t) (atXmit : t.pc.toNat = 8)
    (hexec : exec (referenceOp t.pc.toNat) t = .next u) : s.BeforeWaitPasses u := by
  obtain ⟨cfg, recorded, _, unfinished⟩ := h
  have moved := exec_referenceOp_pc (by omega) hexec
  rw [atXmit] at hexec
  obtain ⟨kept, concluded⟩ := exec_frmXmit_of_not_idle (unfinished atXmit) hexec
  exact {
    cfg := (exec_cfg hexec).trans cfg
    recorded := kept.trans recorded
    places := by omega
    unfinished := fun stayed => concluded.resolve_right fun next => by bv_omega }

/-- Only the wait gets past the wait, and only when the elapsed time meets `FRAME_MIN_TICKS` (R208). -/
theorem State.BeforeWaitPasses.exec (h : s.BeforeWaitPasses t)
    (hexec : exec (referenceOp t.pc.toNat) t = .next u) :
    s.BeforeWaitPasses u ∨ s.cfg.frameMinTicks.toNat ≤ (t.elapsed s.cnt).toNat := by
  obtain atRefresh | atStepall | atWait | atXmit | atJump := h.places
  · exact .inl (h.moves hexec (by omega) (by omega) (by rw [atRefresh]; decide))
  · exact .inl (h.moves hexec (by omega) (by omega) (by rw [atStepall]; decide))
  · rw [← h.cfg, ← h.recorded]
    refine or_iff_not_imp_right.2 fun early => ?_
    rw [atWait] at hexec
    cases (exec_schWait_of_early (Nat.not_le.1 early)).symm.trans hexec
    exact h
  · exact .inl (h.xmit atXmit hexec)
  · exact .inl (h.moves hexec (by omega) (by omega) (by rw [atJump]; decide))

/-- A step of any agent but the host gets past the wait only there (R121, R188, R208). -/
theorem State.BeforeWaitPasses.step (h : s.BeforeWaitPasses t) (ref : s.cfg.prog = referenceProg)
    (unreset : t.turn ≠ .hostReset) (hstep : step t = .next u) :
    s.BeforeWaitPasses u ∨ s.cfg.frameMinTicks.toNat ≤ (t.elapsed s.cnt).toNat := by
  have taken : s.BeforeWaitPasses t.turnTaken := { h with }
  have places := taken.places
  obtain ⟨_, ⟨_, hseq⟩ | ⟨_, rfl⟩ | ⟨_, rfl⟩ | ⟨reset, _⟩⟩ := step_cases hstep
  · obtain rfl | hexec := seqTurn_reference (taken.cfg ▸ ref) (by omega) hseq
    · exact .inl taken
    · exact taken.exec hexec
  · obtain ⟨pc, _, regs, txst⟩ := t.turnTaken.tick_frame
    exact .inl {
      cfg := (State.tick_cfg _).trans taken.cfg
      recorded := (congrArg Regs.x1 regs).trans taken.recorded
      places := pc ▸ places
      unfinished := pc ▸ txst ▸ taken.unfinished }
  · obtain ⟨pc, _, regs, txst⟩ := t.turnTaken.txStep_frame
    exact .inl {
      cfg := (State.txStep_cfg _).trans taken.cfg
      recorded := (congrArg Regs.x1 regs).trans taken.recorded
      places := pc ▸ places
      unfinished := fun atXmit => txst (taken.unfinished (pc ▸ atXmit)) }
  · exact absurd reset unreset

/-- The time that passes on a running clock in a run is at most the ticks of the run: fewer, where it wraps
(R123, R126). -/
theorem run_elapsed_le {n : Nat} (clock : s.inited = true) (unreset : s.noResetIn n)
    (h : core.run n s = .next t) : (t.elapsed s.cnt).toNat ≤ s.ticksIn n := by
  obtain ⟨inited, cnt⟩ := clockCountsTheTicksOfARun s t n clock unreset h
  rw [State.elapsed, State.now, if_pos inited, cnt, add_sub_cancel_left, BitVec.toNat_ofNat]
  exact Nat.mod_le _ _

/-- After a run from an initiation either the wait has not been passed, or `FRAME_MIN_TICKS` ticks have:
by induction on the length of the run (R208, R209). -/
theorem run_beforeWaitPasses {n : Nat} (start : s.BeforeWaitPasses s)
    (ref : s.cfg.prog = referenceProg) (clock : s.inited = true) (unreset : s.noResetIn n)
    (h : core.run n s = .next t) :
    s.BeforeWaitPasses t ∨ s.cfg.frameMinTicks.toNat ≤ s.ticksIn n := by
  induction n generalizing t with
  | zero =>
    cases h
    exact .inl start
  | succ n ih =>
    obtain ⟨u, hu, last⟩ := run_last h
    have unreset' : s.noResetIn n := fun j hj => unreset j (hj.trans n.lt_succ_self)
    have counted : s.ticksIn n ≤ s.ticksIn (n + 1) := Nat.le_add_right _ _
    rcases ih unreset' hu with before | passed
    · have turn : u.turn ≠ .hostReset := run_turn hu ▸ unreset n n.lt_succ_self
      exact (before.step ref turn last).imp_right fun met =>
        met.trans ((run_elapsed_le clock unreset' hu).trans counted)
    · exact .inr (passed.trans counted)

end Spacing

/-- Settles O55: a state about to initiate has passed the wait. -/
theorem frameSpacing : Obligations.FrameSpacing := by
  intro s t n ref clock _ atXmit busy recorded unreset h _ _ atXmit' idle
  have start : s.BeforeWaitPasses s := {
    cfg := rfl
    recorded := recorded
    places := by rw [atXmit]; decide
    unfinished := fun _ => by rw [busy]; nofun }
  obtain before | passed := run_beforeWaitPasses start ref clock unreset h
  · exact absurd idle (before.unfinished (congrArg BitVec.toNat atXmit'))
  · exact passed

end Sys2Proof.Machine

/-! Faults and halts (60_exceptions): what an operation that takes a fault writes, and what the turns after a
halt leave alone. -/

namespace Sys2Proof.Machine

/-! ### Taking a fault -/

/-- Every stored fault code is one of the eight of R231. -/
theorem Exc.code_toNat_le (e : Exc) : e.code.toNat ≤ 8 := by cases e <;> decide

/-- A step of a pixel that answers took no fault (R161). -/
theorem State.stepPixel_fault {s u : State} {i : Nat} (h : s.stepPixel i = .ok u) :
    u.fault = s.fault := by
  obtain ⟨_, _, _, rfl, _⟩ := State.stepPixel_writes h
  rfl

/-- An operation writes `FAULT` only by taking a fault, from the state before it but for the count of
answers taken from outside (R234, log entry 2). -/
theorem exec_raised_or_fault_kept {i : Instr} {s t : State} (h : exec i s = .next t) :
    (∃ (e : Exc) (en : Oracle EntropyAnswer) (ro : Oracle Bool),
      t = ({ s with entropy := en, resOk := ro } : State).raise e) ∨ t.fault = s.fault := by
  cases exec_answered h with
  | raised e en ro _ _ _ answer => exact .inl ⟨e, en, ro, answer⟩
  | jumped _ _ answer | halted _ answer | started _ _ answer | wrote _ _ _ _ _ answer
  | retried _ _ answer | composed _ answer | initiated _ _ answer | held _ _ answer
  | sent _ _ answer | targeted _ _ _ _ answer | passed _ answer | polled _ answer =>
    subst answer
    exact .inr rfl
  | sampled w _ _ _ answer =>
    obtain ⟨_, _, _, writes, _⟩ := s.entropyCalled.acceptSample_writes w
    rw [answer, writes]
    exact .inr rfl
  | stepped _ _ _ u pixel answer =>
    subst answer
    exact .inr (u.advance_fault.trans (State.stepPixel_fault pixel))
  | steppedNext _ _ u pixel answer =>
    have kept := State.stepPixel_fault pixel
    subst answer
    split <;> exact .inr kept

/-- Settles O47: where `FAULT` changed the operation took a fault, and that writes the code, `FPC` and
`HALTED`. -/
theorem faultsArePrecise : Obligations.FaultsArePrecise := by
  intro i s t h changed
  obtain ⟨e, en, ro, rfl⟩ | kept := exec_raised_or_fault_kept h
  · exact ⟨rfl, e.code_toNat_le, e.code_ne_zero⟩
  · exact absurd kept changed

/-! ### After a halt -/

/-- Settles O49: the sequencer's turns pass, and the tick source and the transmitter write only what is
theirs. -/
theorem haltIsLeftOnlyByReset : Obligations.HaltIsLeftOnlyByReset := by
  intro s t halt unreset h
  obtain ⟨_, ⟨_, hseq⟩ | ⟨_, rfl⟩ | ⟨_, rfl⟩ | ⟨reset, _⟩⟩ := step_cases h
  · cases (seqTurn_of_halted (s := s.turnTaken) halt).symm.trans hseq
    rfl
  · rcases s.turnTaken.tick_cases with ⟨_, answer⟩ | ⟨_, answer⟩ <;> rw [answer] <;> rfl
  · rcases s.turnTaken.txStep_cases with ⟨_, answer⟩ | ⟨_, answer⟩ <;> rw [answer] <;> rfl
  · exact absurd reset unreset

end Sys2Proof.Machine

/-! Reset and hazards (60_exceptions): the host's reset from any state, the wait that no clock ends, and the
draws of a source that holds no seed. -/

namespace Sys2Proof.Machine

/-! ### The host's reset -/

/-- In an accepted configuration a turn of the host is its reset, the turn counted (R260). -/
theorem step_of_hostReset_turn {s : State} (hc : s.cfg.accepted = true) (ht : s.turn = .hostReset) :
    step s = .next s.turnTaken.hostReset := by
  rw [step, if_pos hc, ht]

/-- Settles O13: the step is the host's reset, which differs from the reset state only in `GEN` and in what
the outside world owns. -/
theorem hostResetFromAnyState : Obligations.HostResetFromAnyState :=
  fun s hc ht => ⟨s.turnTaken.hostReset, step_of_hostReset_turn hc ht, rfl⟩

/-! ### The wait without a clock -/

/-- An operation that answers the state it was given answers it however often it is repeated. -/
theorem execRepeat_of_fixed {i : Instr} {s : State} (fixed : exec i s = .next s) (n : Nat) :
    execRepeat i n s = .next s := by
  induction n with
  | zero => rfl
  | succ n ih => exact (execRepeat_succ ih).trans fixed

/-- A stopped clock reads 0, and ticks are counted from there (R122, R126). -/
theorem State.elapsed_of_not_inited {s : State} (stopped : s.inited = false) (start : Word) :
    s.elapsed start = 0 - start := by
  rw [State.elapsed, State.now, stopped]
  rfl

/-- Settles O45: the poll reads a stopped clock, so it is not met and the state is a fixed point of it. -/
theorem waitWithoutAClockPollsForever : Obligations.WaitWithoutAClockPollsForever := by
  intro s n stopped early
  rw [← State.elapsed_of_not_inited stopped] at early
  exact execRepeat_of_fixed (exec_schWait_of_early early) n

/-! ### Drawing without a seed -/

/-- A new target needs a seed, and `SCH.RETARGET` without one writes nothing (R203, R234). -/
theorem exec_schRetarget_of_unseeded {s : State} (unseeded : s.seeded = false) :
    exec .schRetarget s = .next (s.raise .rngNotSeeded) := by
  rw [exec, execSchRetarget, State.newTarget_unseeded unseeded]
  rfl

/-- Settles O48: operation by operation, the first draw faults and the fault is the operation's own. -/
theorem drawsNeedASeed : Obligations.DrawsNeedASeed := by
  rintro i s unseeded wf (⟨rd, rfl⟩ | ⟨rd, rfl⟩ | rfl | ⟨rfl, due⟩ | ⟨imm, rfl, range, idle⟩ |
    ⟨rfl, range, idle⟩)
  · obtain ⟨_, _, faulted⟩ := rngU32WritesOneDraw rd s
    exact faulted unseeded
  · exact exec_rngU64_of_unseeded wf unseeded
  · exact exec_schRetarget_of_unseeded unseeded
  · exact (exec_schRefresh_of_due due).trans (exec_schRetarget_of_unseeded unseeded)
  · exact exec_pixStep_error range (State.stepPixel_of_idle_unseeded idle unseeded)
  · exact exec_schStepall_error range (State.stepPixel_of_idle_unseeded idle unseeded)

end Sys2Proof.Machine
